-- ==== Sys2Proof/Word.lean ====
section
/-! DEFINITION. The widths the spec gives: bytes and 64-bit identifiers (spec/00_scope.md R8, R9). -/

namespace Sys2Proof

/-- One 8-bit register or bus byte; bit 0 is the least significant (R8). -/
abbrev Byte := BitVec 8

/-- A 64-bit identifier; bit `k` is index `k`, that is position `k + 1` (R8, spec/20_memory.md R52). -/
abbrev Ident := BitVec 64

end Sys2Proof
end

