-- ==== Sys2Proof/Config.lean ====
section
/-! DEFINITION. What is fixed for one machine (spec/00_scope.md R7) and the free values: what the environment
answers where nothing in the state says it already (spec/20_memory.md R60, R69). -/

namespace Sys2Proof

/-- The two ways a bus primitive fails (spec/40_bus_primitives.md R100). -/
inductive BusError where
  | timeout
  | transportError
  deriving DecidableEq, Repr, Inhabited

/-- What one transport call answers (spec/20_memory.md R60): `fail`, distinct from all 256 byte values (R63),
or success with a byte. `T.Send` answers no byte, so for it only the success counts. -/
inductive Reply where
  | fail
  | ok (b : Byte)
  deriving DecidableEq, Repr, Inhabited

/-- What a completed primitive reports (R100): `P.Reset` presence and short, `P.ReadBit` the bit, `P.ReadByte` the
byte, the two writes nothing. -/
structure PrimValue where
  presence : Bool
  short : Bool
  bit : Bool
  byte : Byte
  deriving DecidableEq, Repr, Inhabited

/-- Level P (R100): the environment's draw for the next primitive, whichever it is. -/
structure Answer where
  error : Option BusError
  value : PrimValue
  deriving DecidableEq, Repr, Inhabited

/-- The implementation parameters (R7): SEARCH_CMD (spec/30_encoding.md R94), the five bridge command bytes and the
two pointer codes (R90, spec/20_memory.md R62). No step writes them. -/
structure Params where
  searchCmd : Byte
  bcSrp : Byte
  bc1wrs : Byte
  bc1wsb : Byte
  bc1wwb : Byte
  bc1wrb : Byte
  ptrStatus : Byte
  ptrData : Byte
  deriving DecidableEq, Repr

/-- The defaults of R90 and R94. PRESUMED (log 10): the spec takes them from general knowledge. -/
def Params.default : Params :=
  { searchCmd := 0xF0#8, bcSrp := 0xE1#8, bc1wrs := 0xB4#8, bc1wsb := 0x87#8, bc1wwb := 0xA5#8,
    bc1wrb := 0x96#8, ptrStatus := 0xF0#8, ptrData := 0xE1#8 }

/-- FREE VALUE (log 2): the transport's answer to a call for which the state fixes none. This and the three free values
below depend on the counter `draws` alone and on no instance: that two instances with equal counters and nothing fixed
meet equal answers is the model's choice (DESIGN CHOICE, logs 2 and 22). -/
opaque Config.freeReply : Nat → Reply

/-- FREE VALUE (log 2): the draw `timeout_expired()` (spec/40_bus_primitives.md R105). -/
opaque Config.freeExpired : Nat → Bool

/-- FREE VALUE (log 2): the outcome of a primitive at level P (R100). The reference bus takes from it the bits and
bytes that spec/20_memory.md R67 does not give (log 13). -/
opaque Config.freeAnswer : Nat → Answer

/-- FREE VALUE (log 3): how many busy polls a wait may still see before the timer must have expired. It stands for
the OPEN `T_BUSY_TIMEOUT` and `T_POLL` (R7, R105): no wait reads busy forever. -/
opaque Config.pollBound : Nat → Nat

end Sys2Proof
end

