-- ==== Sys2Proof/Syntax.lean ====
section
/-! DEFINITION. The rows of spec/opcode_table.json as one inductive, and the five bus primitives
(spec/40_bus_primitives.md R100). -/

namespace Sys2Proof

/-- The two bridge registers the core selects (spec/20_memory.md R62). -/
inductive Pointer where
  | status
  | data
  deriving DecidableEq, Repr

/-- The five bus primitives with what they send (R100). -/
inductive Prim where
  | reset
  | writeBit (b : Bool)
  | readBit
  | writeByte (v : Byte)
  | readByte
  deriving DecidableEq, Repr

/-- One constructor per row of the opcode table. The first eight are what a byte written to CMD means
(spec/30_encoding.md R81, R83); their operand, if any, is in ARG. The others are what the controller sends and
does not decode: five transaction strings to the bridge (R90) and one byte over the 1-Wire bus (R94). -/
inductive Instr where
  | owReset
  | owWriteBit
  | owReadBit
  | owWriteByte
  | owReadByte
  | enumNext
  | searchReset
  | illegal (c : Byte)
  | brSetReadPointer (p : Pointer)
  | br1wReset
  | br1wSingleBit (b : Bool)
  | br1wWriteByte (v : Byte)
  | br1wReadByte
  | busSearchRom
  deriving DecidableEq, Repr

end Sys2Proof
end

