-- ==== Sys2Proof/WellFormed.lean ====
section
/-! DEFINITION. Which instructions and parameters are well formed. -/

namespace Sys2Proof

/-- The seven CMD bytes of spec/30_encoding.md R81. -/
def commandBytes : List Byte := [0x01#8, 0x02#8, 0x03#8, 0x04#8, 0x05#8, 0x10#8, 0x11#8]

/-- An `illegal` command carries a byte outside R81 (R83); nothing else can be ill formed. -/
def Instr.wf : Instr → Bool
  | .owReset | .owWriteBit | .owReadBit | .owWriteByte | .owReadByte | .enumNext | .searchReset => true
  | .illegal c => !commandBytes.contains c
  | .brSetReadPointer _ | .br1wReset | .br1wSingleBit _ | .br1wWriteByte _ | .br1wReadByte => true
  | .busSearchRom => true

/-- The bridge can tell the five commands apart by their first byte and the two pointers by their code: what the
reading of a transaction string needs. The defaults of R90 meet it. -/
def Params.wf (P : Params) : Bool :=
  decide ([P.bcSrp, P.bc1wrs, P.bc1wsb, P.bc1wwb, P.bc1wrb].Nodup) && decide (P.ptrStatus ≠ P.ptrData)

end Sys2Proof
end

