-- ==== Sys2Proof/Decode.lean ====
section
/-! DEFINITION. Reading and writing the encodings of spec/30_encoding.md: the byte written to CMD (R80 to R83), the
transaction strings to the bridge (R90, R93) and the search command on the 1-Wire bus (R94). -/

namespace Sys2Proof

/-- What a byte written to CMD means: R81, and `illegal` for every other byte (R83). Total. -/
def decodeCmd (c : Byte) : Instr :=
  if c = 0x01#8 then .owReset
  else if c = 0x02#8 then .owWriteBit
  else if c = 0x03#8 then .owReadBit
  else if c = 0x04#8 then .owWriteByte
  else if c = 0x05#8 then .owReadByte
  else if c = 0x10#8 then .enumNext
  else if c = 0x11#8 then .searchReset
  else .illegal c

/-- The pointer codes of spec/20_memory.md R62; the core never selects another register. -/
def decodePointer (P : Params) (x : Byte) : Option Pointer :=
  if x = P.ptrStatus then some .status
  else if x = P.ptrData then some .data
  else none

/-- The parameter byte of one-wire-single-bit (R93): `0x80` sends 1, `0x00` sends 0. -/
def decodeBitByte (x : Byte) : Option Bool :=
  if x = 0x80#8 then some true
  else if x = 0x00#8 then some false
  else none

/-- A transaction string as the bridge reads it (R90): command byte first, then its parameter byte if it has one
(spec/20_memory.md R54). `none` for a string the core never sends. -/
def decodeBridge (P : Params) : List Byte → Option Instr
  | [c] =>
    if c = P.bc1wrs then some .br1wReset
    else if c = P.bc1wrb then some .br1wReadByte
    else none
  | [c, x] =>
    if c = P.bcSrp then (decodePointer P x).map .brSetReadPointer
    else if c = P.bc1wsb then (decodeBitByte x).map .br1wSingleBit
    else if c = P.bc1wwb then some (.br1wWriteByte x)
    else none
  | _ => none

/-- The one byte with a meaning of its own on the 1-Wire bus: SEARCH_CMD (R94). -/
def decodeBusByte (P : Params) : List Byte → Option Instr
  | [c] => if c = P.searchCmd then some .busSearchRom else none
  | _ => none

/-- Where bytes are read: written to CMD by the host, sent to the bridge, or sent over the 1-Wire bus. -/
inductive Port where
  | cmd
  | bridge
  | bus
  deriving DecidableEq, Repr

/-- Reading bytes at a port. A host command is exactly one byte (R80). -/
def decode (P : Params) : Port → List Byte → Option Instr
  | .cmd, [c] => some (decodeCmd c)
  | .cmd, _ => none
  | .bridge, bs => decodeBridge P bs
  | .bus, bs => decodeBusByte P bs

/-- The port at which an instruction's bytes appear. -/
def portOf : Instr → Port
  | .owReset | .owWriteBit | .owReadBit | .owWriteByte | .owReadByte => .cmd
  | .enumNext | .searchReset | .illegal _ => .cmd
  | .brSetReadPointer _ | .br1wReset | .br1wSingleBit _ | .br1wWriteByte _ | .br1wReadByte => .bridge
  | .busSearchRom => .bus

/-- The parameter byte that carries a bit in bit 7, bits 6 to 0 zero (R93). -/
def bitByte (b : Bool) : Byte := if b then 0x80#8 else 0x00#8

/-- The pointer code of a bridge register (spec/20_memory.md R62). -/
def pointerByte (P : Params) : Pointer → Byte
  | .status => P.ptrStatus
  | .data => P.ptrData

/-- The bytes of an instruction: R81 for the commands, R90 and R93 for the transaction strings, R94 for the search
command. -/
def encode (P : Params) : Instr → List Byte
  | .owReset => [0x01#8]
  | .owWriteBit => [0x02#8]
  | .owReadBit => [0x03#8]
  | .owWriteByte => [0x04#8]
  | .owReadByte => [0x05#8]
  | .enumNext => [0x10#8]
  | .searchReset => [0x11#8]
  | .illegal c => [c]
  | .brSetReadPointer p => [P.bcSrp, pointerByte P p]
  | .br1wReset => [P.bc1wrs]
  | .br1wSingleBit b => [P.bc1wsb, bitByte b]
  | .br1wWriteByte v => [P.bc1wwb, v]
  | .br1wReadByte => [P.bc1wrb]
  | .busSearchRom => [P.searchCmd]

/-- The CMD byte in a table word: a host command is one byte, bits 7 to 0 of the word. -/
def tableByte (w : Nat) : Byte := BitVec.ofNat 8 w

/-- The host's reading of an opcode-table word. What the machine decodes is a byte written to CMD, exactly one byte
long (R80); a longer word is no command. The rows marked "sent, not decoded" have no word here (log 11). -/
def decodeTableWord (nbits w : Nat) : Option Instr :=
  if nbits ≤ 8 then decode Params.default .cmd [tableByte w] else none

end Sys2Proof
end

