-- ==== Sys2Proof/Machine/State.lean ====
section
/-! DEFINITION. The state of the controller (spec/10_state.md R20 to R38), of the outside world it meets (the
host, the transport and bridge, the reference bus), and the state after reset. -/

namespace Sys2Proof.Machine

/-- Where the sequencer stands (R29). `pRun` carries the primitive the host commanded, which the row P_RUN of
spec/41_search.md R141 runs (DEDUCED, log 9). -/
inductive Phase where
  | idle
  | eReset
  | eSearch
  | eRdId
  | eRdCmp
  | eWrDir
  | eFinish
  | pRun (p : Prim)
  deriving DecidableEq, Repr

/-- The three transport calls (spec/20_memory.md R60). -/
inductive Call where
  | send (bytes : List Byte)
  | sendRecv (bytes : List Byte)
  | readReg
  deriving DecidableEq, Repr

/-- What the controller did towards the bus: a primitive issued, a transport call made. -/
inductive BusEvent where
  | prim (p : Prim)
  | call (c : Call)
  deriving DecidableEq, Repr

/-- Who answers: the transport call by call (level T), the environment primitive by primitive (level P)
(spec/00_scope.md R6), or the reference bus (spec/20_memory.md R67). -/
inductive Level where
  | transactions
  | primitives
  | reference
  deriving DecidableEq, Repr

/-- Where the devices of the reference bus stand: just reset, in search mode at position `p` after `reads` bit reads
there, or outside the pattern R67 describes (log 13). -/
inductive BusMode where
  | offPattern
  | afterReset
  | search (p reads : Nat)
  deriving DecidableEq, Repr

/-- The reference bus (R67): the set `S`, the live set `L`, the search position, and the scripted faults that may be
laid over it, one entry per primitive to come (R67.5). -/
structure RefBus where
  devices : List Ident
  live : List Ident
  mode : BusMode
  overlay : List (Option BusError)
  deriving DecidableEq, Repr

/-- The environment (spec/00_scope.md R3, agents 3 and 4). Answers already fixed are in the lists, the next first;
when a list is empty the free values of Config are drawn, `draws` counting them (log 2). -/
structure Env where
  level : Level
  replies : List Reply
  timers : List Bool
  answers : List Answer
  bus : RefBus
  reply : Reply
  draws : Nat
  log : List BusEvent
  deriving DecidableEq, Repr

/-- One 8-bit host access (spec/20_memory.md R56); no other width can be written down (log 26). -/
inductive HostAccess where
  | read (addr : Byte)
  | write (addr v : Byte)
  deriving DecidableEq, Repr

/-- What can reach the controller beside the single host it serves: a second host's access
(spec/70_reset_and_hazards.md R194) or the reset input (R190). -/
inductive Arrival where
  | access (a : HostAccess)
  | resetInput
  deriving DecidableEq, Repr

/-- The machine. `rom` and `idOut` are in the bit layout of spec/20_memory.md R52; `romWritten`, `dataWritten` and
`idWritten` say which locations hold a value in the sense of R38. -/
structure State where
  ld : BitVec 7
  lfd : BitVec 4
  exh : Bool
  rom : Ident
  romWritten : BitVec 64
  n : BitVec 7
  lastZero : BitVec 7
  idBit : Bool
  cmpBit : Bool
  dir : Bool
  latPpd : Bool
  latSd : Bool
  phase : Phase
  busSync : Bool
  arg : Byte
  result : Byte
  data : Byte
  dataWritten : Bool
  idOut : Ident
  idWritten : Bool
  params : Params
  env : Env
  host : List HostAccess
  arrivals : List (Nat × Arrival)
  seen : List (Byte × Byte)
  deriving DecidableEq, Repr

/-- The model faults of spec/60_exceptions.md R176. A fault ends the run: it is sticky. -/
inductive Fault where
  /-- `OW_WRITE_BIT`, `OW_READ_BIT`, `OW_WRITE_BYTE` or `OW_READ_BYTE` commanded while BUS_SYNC = 0
  (spec/70_reset_and_hazards.md R195). Safe: the spec names this stop. -/
  | hazardBusUndefined
  /-- A host access that arrives while phase is not IDLE (R194). Safe: the spec names this stop. -/
  | hostOverlap
  /-- A read of DATA, ID_OUT or a ROM bit that holds no value (R177). Safe: the spec names this stop. -/
  | unwrittenRead
  deriving DecidableEq, Repr

/-- Refusals. -/
inductive Refusal where
  /-- An instruction without a meaning yet, by its mnemonic; raised by `exec` only. Safe. No arm raises it. -/
  | notModelled (mnemonic : String)
  deriving DecidableEq, Repr

/-- What a step turns to: a byte written to CMD, whose command then runs in state `s`, or something that is over at
once with outcome `o`. -/
inductive Turn where
  | command (c : Byte) (s : State)
  | over (o : Host.Outcome State Fault Refusal)

/-- The environment at power-up: level T, nothing fixed in advance (DESIGN CHOICE, logs 1, 2, 13, 17 and 25). -/
def Env.initial : Env :=
  { level := .transactions, replies := [], timers := [], answers := [],
    bus := { devices := [], live := [], mode := .offPattern, overlay := [] },
    reply := .fail, draws := 0, log := [] }

/-- The machine right after reset (R38, R190). ROM, DATA, ID_OUT and the transients have no value there: they are
held as 0 and the first three are marked unwritten (DESIGN CHOICE, logs 4, 5 and 6). -/
def State.reset : State :=
  { ld := 0#7, lfd := 0#4, exh := false, rom := 0#64, romWritten := 0#64,
    n := 0#7, lastZero := 0#7, idBit := false, cmpBit := false, dir := false,
    latPpd := false, latSd := false, phase := .idle, busSync := false,
    arg := 0x00#8, result := 0x0F#8, data := 0x00#8, dataWritten := false,
    idOut := 0#64, idWritten := false, params := Params.default, env := Env.initial,
    host := [], arrivals := [], seen := [] }

end Sys2Proof.Machine
end

