-- ==== Sys2Proof/Machine/Flags.lean ====
section
/-! DEFINITION. The outcome codes and the RESULT and ST_FLAGS bytes (spec/30_encoding.md R84 to R86,
spec/10_state.md R33 to R35). -/

namespace Sys2Proof.Machine

/-- The outcomes of R85. The reserved codes 0x9 to 0xE have no constructor: they are never written. -/
inductive Code where
  | ok
  | exhausted
  | noPresence
  | short
  | noResponse
  | zeroFamily
  | timeout
  | transportError
  | illegalCmd
  | resetState
  deriving DecidableEq, Repr

/-- The code values of R85. -/
def codeByte : Code → Byte
  | .ok => 0x00#8
  | .exhausted => 0x01#8
  | .noPresence => 0x02#8
  | .short => 0x03#8
  | .noResponse => 0x04#8
  | .zeroFamily => 0x05#8
  | .timeout => 0x06#8
  | .transportError => 0x07#8
  | .illegalCmd => 0x08#8
  | .resetState => 0x0F#8

/-- The outcome of a failed primitive (R85, spec/60_exceptions.md R172). -/
def errorCode : BusError → Code
  | .timeout => .timeout
  | .transportError => .transportError

/-- `zext_8` of one bit (spec/00_scope.md R9). -/
def flagByte (b : Bool) : Byte := if b then 0x01#8 else 0x00#8

/-- `(SD << 6) | (PPD << 5) | (FOUND << 4) | CODE` (R86). -/
def resultByte (c : Code) (found ppd sd : Bool) : Byte :=
  (flagByte sd <<< 6) ||| (flagByte ppd <<< 5) ||| (flagByte found <<< 4) ||| codeByte c

/-- RESULT bits 3 to 0 (spec/10_state.md R33). -/
def resultCode (r : Byte) : BitVec 4 := r.extractLsb' 0 4

/-- RESULT bit 4 (R33). -/
def resultFound (r : Byte) : Bool := r.getLsbD 4

/-- RESULT bit 5 (R33). -/
def resultPpd (r : Byte) : Bool := r.getLsbD 5

/-- RESULT bit 6 (R33). -/
def resultSd (r : Byte) : Bool := r.getLsbD 6

/-- ST_FLAGS: bit 0 EXH, bit 1 BUS_SYNC, the rest 0 (spec/10_state.md R35). -/
def statusFlags (s : State) : Byte := (flagByte s.busSync <<< 1) ||| flagByte s.exh

/-- What BUS_SYNC is after a primitive (spec/40_bus_primitives.md R100): 0 after an error, 1 after a completed
`P.Reset`, else as before. -/
def syncAfter (p : Prim) (error : Bool) (before : Bool) : Bool :=
  if error then false
  else match p with
    | .reset => true
    | .writeBit _ | .readBit | .writeByte _ | .readByte => before

end Sys2Proof.Machine
end

