-- ==== Sys2Proof/Machine/Operands.lean ====
section
/-! DEFINITION. Operands of the commands (spec/30_encoding.md R82), the bits and bytes of the identifier buffer
(spec/20_memory.md R52), and the host register map (R57, R58). -/

namespace Sys2Proof.Machine

/-- The operand of `OW_WRITE_BIT`: ARG[0] (R82). -/
def argBit (s : State) : Bool := s.arg.getLsbD 0

/-- The operand of `OW_WRITE_BYTE`: ARG[7:0] (R82). -/
def argByte (s : State) : Byte := s.arg

/-- `w` with bit `k` made `b`. -/
def setBit (w : BitVec 64) (k : Nat) (b : Bool) : BitVec 64 :=
  if b then w ||| BitVec.twoPow 64 k else w &&& ~~~(BitVec.twoPow 64 k)

/-- Byte `i` of an identifier: bits `8i` to `8i+7`, least significant first (spec/20_memory.md R51, R52). -/
def idByte (d : Ident) (i : Nat) : Byte := d.extractLsb' (8 * i) 8

/-- The identifier of eight bytes in bus order, byte 0 first (R51, R52). -/
def ofBytes (b0 b1 b2 b3 b4 b5 b6 b7 : Byte) : Ident :=
  b7 ++ b6 ++ b5 ++ b4 ++ b3 ++ b2 ++ b1 ++ b0

/-- The index `k = n - 1` of the cursor (spec/00_scope.md R8). -/
def cursorIndex (s : State) : Nat := (s.n - 1#7).toNat

/-- `ROM[k]`; `none` if no pass has written it (spec/10_state.md R38). -/
def romBit (s : State) (k : Nat) : Option Bool :=
  if s.romWritten.getLsbD k then some (s.rom.getLsbD k) else none

/-- `ROM[k] <- b` (spec/10_state.md R24). -/
def writeRom (k : Nat) (b : Bool) (s : State) : State :=
  { s with rom := setBit s.rom k b, romWritten := setBit s.romWritten k true }

/-- What the host sees at an address (spec/20_memory.md R57, R58); `none` where the register holds no value yet
(spec/60_exceptions.md R177). -/
def peek (a : Byte) (s : State) : Option Byte :=
  if a = 0x00#8 then some 0x00#8
  else if a = 0x01#8 then some s.arg
  else if a = 0x02#8 then some s.result
  else if a = 0x03#8 then (if s.dataWritten then some s.data else none)
  else if a = 0x04#8 then some (s.ld.setWidth 8)
  else if a = 0x05#8 then some (s.lfd.setWidth 8)
  else if a = 0x06#8 then some (statusFlags s)
  else if 8 ≤ a.toNat ∧ a.toNat ≤ 15 then
    (if s.idWritten then some (idByte s.idOut (a.toNat - 8)) else none)
  else some 0x00#8

end Sys2Proof.Machine
end

