-- ==== Sys2Proof/Machine/Ops.lean ====
section
/-! DEFINITION. The operations every command shares: reporting an outcome (spec/60_exceptions.md R170, R174, which
stands in this hardware where another takes an exception), the search-state reset (spec/41_search.md R140), the
abort (R138), the two checks of a CMD write, and the reset input. -/

namespace Sys2Proof.Machine

/-- What a primitive or a part of one ends with (spec/40_bus_primitives.md R100). -/
inductive Res (α : Type) where
  | ok (a : α)
  | err (e : BusError)
  deriving DecidableEq, Repr

/-- True of an error outcome. -/
def isErr {α : Type} : Res α → Bool
  | .ok _ => false
  | .err _ => true

/-- Go on after a success; an error ends the primitive at once and sends nothing more (R102). -/
def resThen {α β : Type} (r : Res α × Env) (k : α → Env → Res β × Env) : Res β × Env :=
  match r.1 with
  | .ok a => k a r.2
  | .err e => (.err e, r.2)

/-- `SR()` (spec/41_search.md R140). -/
def clearSearch (s : State) : State := { s with ld := 0#7, lfd := 0#4, exh := false }

/-- The end of every command: RESULT written whole, phase back at IDLE (spec/10_state.md R33,
spec/70_reset_and_hazards.md R200). -/
def complete (c : Code) (found ppd sd : Bool) (s : State) : State :=
  { s with result := resultByte c found ppd sd, phase := .idle }

/-- `phase <- p` (spec/00_scope.md R10). -/
def enterPhase (p : Phase) (s : State) : State := { s with phase := p }

/-- The abort of `ENUM_NEXT` (R138): `SR()`, RESULT with the latched PPD and SD, IDLE. -/
def abort (c : Code) (s : State) : State := complete c false s.latPpd s.latSd (clearSearch s)

/-- The controller's reset input (spec/70_reset_and_hazards.md R190, R191): every piece of the controller's state at
its reset value; the bridge, the bus, the hosts and the parameters untouched (log 19). -/
def resetController (s : State) : State :=
  { State.reset with
    params := s.params, env := s.env, host := s.host, arrivals := s.arrivals, seen := s.seen }

/-- A CMD write is a host access: outside IDLE it is an overlap (spec/70_reset_and_hazards.md R194). -/
def whenIdle (s : State) (run : State → Host.Outcome State Fault Refusal) : Host.Outcome State Fault Refusal :=
  match s.phase with
  | .idle => run s
  | .eReset | .eSearch | .eRdId | .eRdCmp | .eWrDir | .eFinish | .pRun _ => .fault .hostOverlap

/-- `require BUS_SYNC = 1` (spec/40_bus_primitives.md R113 to R116, spec/70_reset_and_hazards.md R195). -/
def whenSync (s : State) (run : State → Host.Outcome State Fault Refusal) : Host.Outcome State Fault Refusal :=
  if s.busSync then run s else .fault .hazardBusUndefined

end Sys2Proof.Machine
end

