-- ==== Sys2Proof/Machine/Transport.lean ====
section
/-! DEFINITION. Level T: the transport calls (spec/20_memory.md R60 to R63), the bounded busy-wait and the five
primitives as transactions (spec/40_bus_primitives.md R103 to R110). -/

namespace Sys2Proof.Machine

/-- One transport call (R60, R61): recorded, and answered by the next fixed reply or a free one. -/
def callTransport (c : Call) (e : Env) : Env :=
  match e.replies with
  | r :: rest => { e with replies := rest, reply := r, log := .call c :: e.log }
  | [] => { e with reply := Config.freeReply e.draws, draws := e.draws + 1, log := .call c :: e.log }

/-- The draw `timeout_expired()` (R105). -/
def drawExpired (e : Env) : Bool × Env :=
  match e.timers with
  | x :: rest => (x, { e with timers := rest })
  | [] => (Config.freeExpired e.draws, { e with draws := e.draws + 1 })

/-- `T.SendRecv([BC_SRP, PTR_STATUS], 1)`, the call of `ReadStatus()` (R103). -/
def callStatus (P : Params) (e : Env) : Env :=
  callTransport (.sendRecv (encode P (.brSetReadPointer .status))) e

/-- SB_BUSY, bit 0 of the status byte (spec/30_encoding.md R92). -/
def statusBusy (st : Byte) : Bool := st.getLsbD 0

/-- SB_PPD, SB_SD and SB_SBR, bits 1, 2 and 5 of the status byte (R92); its other bits are ignored. -/
def valueOfStatus (st : Byte) : PrimValue :=
  { presence := st.getLsbD 1, short := st.getLsbD 2, bit := st.getLsbD 5, byte := 0x00#8 }

/-- What a status read says (R103, R104): `fail` is TRANSPORT_ERROR at once, even inside a wait; not busy ends the
wait with that byte; busy goes on with `onBusy`. -/
def judgePoll (e : Env) (onBusy : Env → Res Byte × Env) : Res Byte × Env :=
  match e.reply with
  | .fail => (.err .transportError, e)
  | .ok st => if statusBusy st then onBusy e else (.ok st, e)

/-- `BusyWait()` (R104) with `fuel` busy polls left before the timer must have expired (R105, log 3). -/
def busyWait (P : Params) : Nat → Env → Res Byte × Env
  | 0, e => judgePoll (callStatus P e) fun e1 => (.err .timeout, e1)
  | fuel + 1, e => judgePoll (callStatus P e) fun e1 =>
      if (drawExpired e1).1 then (.err .timeout, (drawExpired e1).2)
      else busyWait P fuel (drawExpired e1).2

/-- The free bound on busy polls; it never cuts a wait short of the replies and timer draws already fixed (log 3). -/
def waitBudget (e : Env) : Nat := Config.pollBound e.draws + (e.replies.length + e.timers.length)

/-- `BusyWait()` with its bound. -/
def waitIdle (P : Params) (e : Env) : Res Byte × Env := busyWait P (waitBudget e) e

/-- The result of a `T.Send` or `T.ReadReg` just made: `fail` is TRANSPORT_ERROR (spec/20_memory.md R63). -/
def judgeReply (e : Env) : Res Byte × Env :=
  match e.reply with
  | .fail => (.err .transportError, e)
  | .ok b => (.ok b, e)

/-- `T.Send` of a transaction string of spec/30_encoding.md R90. -/
def callSend (P : Params) (i : Instr) (e : Env) : Env := callTransport (.send (encode P i)) e

/-- Busy-wait, send one string, busy-wait: the shape of R106 to R109. Answers the status byte that ended the
post-wait (R41 of spec/10_state.md). -/
def sendBetweenWaits (P : Params) (i : Instr) (e : Env) : Res Byte × Env :=
  resThen (waitIdle P e) fun _ e1 =>
  resThen (judgeReply (callSend P i e1)) fun _ e2 =>
  waitIdle P e2

/-- The end of the four primitives whose result, if any, is in the status byte. -/
def statusResult (r : Res Byte × Env) : Res PrimValue × Env :=
  resThen r fun st e => (.ok (valueOfStatus st), e)

/-- The five primitives at level T (R106 to R110). -/
def primTransactions (P : Params) (p : Prim) (e : Env) : Res PrimValue × Env :=
  match p with
  | .reset => statusResult (sendBetweenWaits P .br1wReset e)
  | .writeBit b => statusResult (sendBetweenWaits P (.br1wSingleBit b) e)
  | .readBit => statusResult (sendBetweenWaits P (.br1wSingleBit true) e)
  | .writeByte v => statusResult (sendBetweenWaits P (.br1wWriteByte v) e)
  | .readByte =>
    resThen (sendBetweenWaits P .br1wReadByte e) fun _ e1 =>
    resThen (judgeReply (callSend P (.brSetReadPointer .data) e1)) fun _ e2 =>
    resThen (judgeReply (callTransport .readReg e2)) fun d e3 =>
    (.ok { presence := false, short := false, bit := false, byte := d }, e3)

end Sys2Proof.Machine
end

