-- ==== Sys2Proof/Machine/Bridge.lean ====
section
/-! DEFINITION. The transaction strings the controller sends to the bridge (spec/30_encoding.md R89, R90): each is one
transport call, recorded, with its answer in `env.reply` (log 11). The primitives of level T are made of the same
calls. -/

namespace Sys2Proof.Machine

/-- set-read-pointer: for the status register with its one reply byte (spec/40_bus_primitives.md R103), for the read
data register alone (R110). -/
def execBrSetReadPointer (p : Pointer) (s : State) : Host.Outcome State Fault Refusal :=
  match p with
  | .status => .next { s with env := callStatus s.params s.env }
  | .data => .next { s with env := callSend s.params (.brSetReadPointer .data) s.env }

/-- one-wire-reset (R106). -/
def execBr1wReset (s : State) : Host.Outcome State Fault Refusal :=
  .next { s with env := callSend s.params .br1wReset s.env }

/-- one-wire-single-bit (R107, R108). -/
def execBr1wSingleBit (b : Bool) (s : State) : Host.Outcome State Fault Refusal :=
  .next { s with env := callSend s.params (.br1wSingleBit b) s.env }

/-- one-wire-write-byte (R109). -/
def execBr1wWriteByte (v : Byte) (s : State) : Host.Outcome State Fault Refusal :=
  .next { s with env := callSend s.params (.br1wWriteByte v) s.env }

/-- one-wire-read-byte (R110). -/
def execBr1wReadByte (s : State) : Host.Outcome State Fault Refusal :=
  .next { s with env := callSend s.params .br1wReadByte s.env }

end Sys2Proof.Machine
end

