-- ==== Sys2Proof/Machine/ReferenceBus.lean ====
section
/-! DEFINITION. The reference wired-AND bus of spec/20_memory.md R66 to R68. Outside the pattern R67 describes its
devices may answer anything: a free value (log 13); where no device can answer, R66 fixes the read at ones. -/

namespace Sys2Proof.Machine

/-- The AND of the live devices' bits at index `k`; 1 when none is live (R66, R67.3). -/
def wiredAnd (live : List Ident) (k : Nat) : Bool := live.all fun d => d.getLsbD k

/-- The AND of the live devices' inverted bits at index `k` (R67.3). -/
def wiredAndNot (live : List Ident) (k : Nat) : Bool := live.all fun d => !d.getLsbD k

/-- A completed primitive that reports one bit. -/
def bitValue (b : Bool) : PrimValue := { presence := false, short := false, bit := b, byte := 0x00#8 }

/-- No device answers: there is none (R66), or in search mode every one has dropped out (R67.4). That those which
dropped out stay silent off the pattern of R67 as long as the search lasts is the model's choice (DESIGN CHOICE, log 13). -/
def silent (b : RefBus) : Bool :=
  b.devices.isEmpty ||
    match b.mode with
    | .search _ _ => b.live.isEmpty
    | .afterReset | .offPattern => false

/-- What slots that no device answers read: a device that does not answer contributes 1 (R66;
spec/40_bus_primitives.md R114, R116). -/
def unanswered (free : PrimValue) : PrimValue := { free with bit := true, byte := 0xFF#8 }

/-- The bus falls out of the pattern of R67; `free` is what its devices answer there, if there are any (R66). -/
def offPattern (b : RefBus) (free : PrimValue) : PrimValue × RefBus :=
  (if silent b then unanswered free else free, { b with mode := .offPattern })

/-- `P.WriteBit(b)` at position `p` (R67.4); after position 64 the search is over. -/
def narrow (p : Nat) (v : Bool) (b : RefBus) : RefBus :=
  { b with
    live := b.live.filter (fun d => d.getLsbD (p - 1) == v)
    mode := if p < 64 then .search (p + 1) 0 else .offPattern }

/-- What the devices do at one primitive (R67.1 to R67.4). -/
def busAnswer (P : Params) (p : Prim) (b : RefBus) (free : PrimValue) : PrimValue × RefBus :=
  match p with
  | .reset =>
    ({ presence := !b.devices.isEmpty, short := false, bit := false, byte := 0x00#8 },
      { b with live := b.devices, mode := .afterReset })
  | .writeByte v =>
    match b.mode with
    | .afterReset => if v = P.searchCmd then (free, { b with mode := .search 1 0 }) else offPattern b free
    | .search _ _ | .offPattern => offPattern b free
  | .readBit =>
    match b.mode with
    | .search q 0 => (bitValue (wiredAnd b.live (q - 1)), { b with mode := .search q 1 })
    | .search q 1 => (bitValue (wiredAndNot b.live (q - 1)), { b with mode := .search q 2 })
    | .search _ (_ + 2) | .afterReset | .offPattern => offPattern b free
  | .writeBit v =>
    match b.mode with
    | .search q _ => (free, narrow q v b)
    | .afterReset | .offPattern => offPattern b free
  | .readByte => offPattern b free

/-- One primitive on the reference bus: it completes `OK` unless a fault is laid over it (R67.5). What the devices
did in a faulted primitive is unknown (spec/60_exceptions.md R174, log 14). -/
def primReference (P : Params) (p : Prim) (e : Env) : Res PrimValue × Env :=
  let free := (Config.freeAnswer e.draws).value
  match e.bus.overlay with
  | some x :: rest =>
    (.err x, { e with draws := e.draws + 1, bus := { e.bus with overlay := rest, mode := .offPattern } })
  | none :: rest =>
    let r := busAnswer P p { e.bus with overlay := rest } free
    (.ok r.1, { e with draws := e.draws + 1, bus := r.2 })
  | [] =>
    let r := busAnswer P p e.bus free
    (.ok r.1, { e with draws := e.draws + 1, bus := r.2 })

end Sys2Proof.Machine
end

