-- ==== Sys2Proof/Machine/Primitives.lean ====
section
/-! DEFINITION. A bus primitive as one operation (spec/40_bus_primitives.md R100 to R102), whoever answers it, and
the row P_RUN that ends a primitive the host commanded (R101, R112 to R116). -/

namespace Sys2Proof.Machine

/-- Level P: the next fixed answer or a free one (R100). -/
def primAnswer (e : Env) : Res PrimValue × Env :=
  match e.answers with
  | a :: rest => (match a.error with | some x => .err x | none => .ok a.value, { e with answers := rest })
  | [] =>
    (match (Config.freeAnswer e.draws).error with
      | some x => .err x
      | none => .ok (Config.freeAnswer e.draws).value,
      { e with draws := e.draws + 1 })

/-- The part of a value that a primitive reports (R100, the column of success outcomes). -/
def reported (p : Prim) (v : PrimValue) : PrimValue :=
  match p with
  | .reset => { presence := v.presence, short := v.short, bit := false, byte := 0x00#8 }
  | .readBit => { presence := false, short := false, bit := v.bit, byte := 0x00#8 }
  | .readByte => { presence := false, short := false, bit := false, byte := v.byte }
  | .writeBit _ | .writeByte _ => { presence := false, short := false, bit := false, byte := 0x00#8 }

/-- The environment's side of a primitive at the level in use (spec/00_scope.md R6). -/
def primRaw (P : Params) (p : Prim) (e : Env) : Res PrimValue × Env :=
  match e.level with
  | .transactions => primTransactions P p e
  | .primitives => primAnswer e
  | .reference => primReference P p e

/-- A primitive with the record that it was issued. -/
def primRun (P : Params) (p : Prim) (e : Env) : Res PrimValue × Env :=
  resThen (primRaw P p { e with log := .prim p :: e.log }) fun v e1 => (.ok (reported p v), e1)

/-- The outcome of issuing `p` now. -/
def primOutcome (p : Prim) (s : State) : Res PrimValue := (primRun s.params p s.env).1

/-- The state after issuing `p`: the environment moves on and BUS_SYNC follows R100; a primitive writes nothing
else. -/
def afterPrim (p : Prim) (s : State) : State :=
  { s with
    env := (primRun s.params p s.env).2
    busSync := syncAfter p (isErr (primOutcome p s)) s.busSync }

/-- `DATA <- v` (spec/10_state.md R36). -/
def writeData (v : Byte) (s : State) : State := { s with data := v, dataWritten := true }

/-- What a completed primitive of the host writes beside the environment (R112 to R116). -/
def reportPrim (p : Prim) (v : PrimValue) (s : State) : State :=
  match p with
  | .reset => complete .ok false v.presence v.short s
  | .writeBit _ => complete .ok false false false s
  | .readBit => complete .ok false false false (writeData (flagByte v.bit) s)
  | .writeByte _ => complete .ok false false false s
  | .readByte => complete .ok false false false (writeData v.byte s)

/-- The row P_RUN of spec/41_search.md R141: run the primitive, report it, go back to IDLE. -/
def runPrimRow (p : Prim) (s : State) : State :=
  match primOutcome p s with
  | .ok v => reportPrim p v (afterPrim p s)
  | .err e => complete (errorCode e) false false false (afterPrim p s)

end Sys2Proof.Machine
end

