-- ==== Sys2Proof/Machine/Search.lean ====
section
/-! DEFINITION. The rows of the sequencer for `ENUM_NEXT` (spec/41_search.md R132 to R137, R141). Each issues at most
one primitive. -/

namespace Sys2Proof.Machine

/-- `latch PPD=p, SD=s` for the final RESULT (R132). -/
def latchReset (ppd sd : Bool) (s : State) : State := { s with latPpd := ppd, latSd := sd }

/-- E_RESET (R132): the bus reset; short is tested before presence. An error leaves both flags 0 (spec/10_state.md
R34). -/
def resetRow (s : State) : State :=
  match primOutcome .reset s with
  | .err e => abort (errorCode e) (latchReset false false (afterPrim .reset s))
  | .ok v =>
    if v.short then abort .short (latchReset v.presence v.short (afterPrim .reset s))
    else if v.presence then enterPhase .eSearch (latchReset v.presence v.short (afterPrim .reset s))
    else abort .noPresence (latchReset v.presence v.short (afterPrim .reset s))

/-- `n <- 1; last_zero <- 0` (R133). -/
def startRounds (s : State) : State := { s with n := 1#7, lastZero := 0#7 }

/-- E_SEARCH (R133): the search command, then position 1 with no zero taken yet. -/
def searchRow (s : State) : State :=
  match primOutcome (.writeByte s.params.searchCmd) s with
  | .err e => abort (errorCode e) (afterPrim (.writeByte s.params.searchCmd) s)
  | .ok _ => enterPhase .eRdId (startRounds (afterPrim (.writeByte s.params.searchCmd) s))

/-- `id_bit <- b` (spec/10_state.md R28). -/
def latchId (b : Bool) (s : State) : State := { s with idBit := b }

/-- `cmp_bit <- b` (spec/10_state.md R28). -/
def latchCmp (b : Bool) (s : State) : State := { s with cmpBit := b }

/-- E_RD_ID (R134.1): the first bit of the round. -/
def readIdRow (s : State) : State :=
  match primOutcome .readBit s with
  | .err e => abort (errorCode e) (afterPrim .readBit s)
  | .ok v => enterPhase .eRdCmp (latchId v.bit (afterPrim .readBit s))

/-- The direction of the round (R134.3, R143): forced where the two bits differ; at a discrepancy the old bit before
LD, 1 at LD, 0 after it. `none` where the old bit holds no value (spec/60_exceptions.md R177). -/
def chooseDir (s : State) : Option Bool :=
  if s.idBit != s.cmpBit then some s.idBit
  else if s.n < s.ld then romBit s (cursorIndex s)
  else some (s.n == s.ld)

/-- Recording the choice (R135, all but the write): `last_zero` and LFD only at a discrepancy taken to 0, then the bit
into ROM. -/
def recordDir (d : Bool) (s : State) : State :=
  let zeroTaken := (s.idBit == s.cmpBit) && !d
  writeRom (cursorIndex s) d
    { s with
      lastZero := if zeroTaken then s.n else s.lastZero
      lfd := if zeroTaken && s.n ≤ 8#7 then s.n.setWidth 4 else s.lfd
      dir := d }

/-- Both bits read (R134.3, R135): no response, or the choice and its record. -/
def judgePair (s : State) : Host.Outcome State Fault Refusal :=
  if s.idBit && s.cmpBit then .next (abort .noResponse s)
  else match chooseDir s with
    | some d => .next (enterPhase .eWrDir (recordDir d s))
    | none => .fault .unwrittenRead

/-- E_RD_CMP (R134, R135): the second bit, then the pair is judged. -/
def readCmpRow (s : State) : Host.Outcome State Fault Refusal :=
  match primOutcome .readBit s with
  | .err e => .next (abort (errorCode e) (afterPrim .readBit s))
  | .ok v => judgePair (latchCmp v.bit (afterPrim .readBit s))

/-- `n <- n + 1` (R135). -/
def nextPosition (s : State) : State := { s with n := s.n + 1#7 }

/-- E_WR_DIR (R135): send the direction, then the next position or the end of the pass. -/
def writeDirRow (s : State) : State :=
  match primOutcome (.writeBit s.dir) s with
  | .err e => abort (errorCode e) (afterPrim (.writeBit s.dir) s)
  | .ok _ =>
    enterPhase (if s.n < 64#7 then .eRdId else .eFinish) (nextPosition (afterPrim (.writeBit s.dir) s))

/-- The end of a complete pass (R136): `LD <- last_zero`; `if LD = 0: EXH <- 1`. -/
def endPass (s : State) : State :=
  { s with ld := s.lastZero, exh := if s.lastZero = 0#7 then true else s.exh }

/-- ROM[0..7], the family code: every bit 0 (R137). -/
def zeroFamily (s : State) : Bool := idByte s.rom 0 == 0x00#8

/-- `ID_OUT <- ROM` (R137, spec/10_state.md R37). -/
def publishId (s : State) : State := { s with idOut := s.rom, idWritten := true }

/-- E_FINISH (R136, R137). The zero-family check reads ROM[0..7] and the copy reads all of ROM: a bit that no pass
wrote is an unwritten read (spec/60_exceptions.md R177). PPD is 1 and SD 0, as R137 gives them. -/
def finishRow (s : State) : Host.Outcome State Fault Refusal :=
  if idByte s.romWritten 0 ≠ 0xFF#8 then .fault .unwrittenRead
  else if zeroFamily s then .next (complete .zeroFamily false true false (clearSearch (endPass s)))
  else if s.romWritten ≠ BitVec.allOnes 64 then .fault .unwrittenRead
  else .next (complete .ok true true false (publishId (endPass s)))

end Sys2Proof.Machine
end

