-- ==== Sys2Proof/Machine/Sequencer.lean ====
section
/-! DEFINITION. The sequencer (spec/41_search.md R141): one row a step, and a command as the run of its rows until the
controller is back in IDLE (spec/10_state.md R31). -/

namespace Sys2Proof.Machine

/-- True in IDLE only. -/
def isIdle : Phase → Bool
  | .idle => true
  | .eReset | .eSearch | .eRdId | .eRdCmp | .eWrDir | .eFinish | .pRun _ => false

/-- One row of R141 for the phase the sequencer is in; IDLE has none without a CMD write. -/
def runRow (s : State) : Host.Outcome State Fault Refusal :=
  match s.phase with
  | .idle => .next s
  | .eReset => .next (resetRow s)
  | .eSearch => .next (searchRow s)
  | .eRdId => .next (readIdRow s)
  | .eRdCmp => readCmpRow s
  | .eWrDir => .next (writeDirRow s)
  | .eFinish => finishRow s
  | .pRun p => .next (runPrimRow p s)

/-- One step of the sequencer outside IDLE. What arrives now comes first: a host access is an overlap
(spec/70_reset_and_hazards.md R194), the reset input resets (R190); what arrives later is one row nearer (log 8). -/
def sequencerStep (s : State) : Host.Outcome State Fault Refusal :=
  match s.arrivals with
  | (0, .access _) :: _ => .fault .hostOverlap
  | (0, .resetInput) :: rest => .next (resetController { s with arrivals := rest })
  | (k + 1, a) :: rest => runRow { s with arrivals := (k, a) :: rest }
  | [] => runRow s

/-- Steps of the sequencer until IDLE, at most `rows` of them. -/
def runToIdle : Nat → State → Host.Outcome State Fault Refusal
  | 0, s => .next s
  | rows + 1, s =>
    if isIdle s.phase then .next s
    else match sequencerStep s with
      | .next t => runToIdle rows t
      | .fault f => .fault f
      | .refused r => .refused r

/-- A command of one primitive: IDLE to P_RUN, then its one row (spec/40_bus_primitives.md R101). -/
def startPrim (p : Prim) (s : State) : Host.Outcome State Fault Refusal :=
  runToIdle 1 (enterPhase (.pRun p) s)

/-- The rows of a whole pass: reset, search command, 64 rounds of three, the end (R141). -/
def passRows : Nat := 1 + 1 + 64 * 3 + 1

end Sys2Proof.Machine
end

