-- ==== Sys2Proof/Machine/BusCommands.lean ====
section
/-! DEFINITION. The host commands that expose the bus primitives (spec/40_bus_primitives.md R112 to R116). -/

namespace Sys2Proof.Machine

/-- `OW_RESET` (R112): no precondition but IDLE. -/
def execOwReset (s : State) : Host.Outcome State Fault Refusal :=
  whenIdle s fun s => startPrim .reset s

/-- `OW_WRITE_BIT` (R113): sends ARG[0]. -/
def execOwWriteBit (s : State) : Host.Outcome State Fault Refusal :=
  whenIdle s fun s => whenSync s fun s => startPrim (.writeBit (argBit s)) s

/-- `OW_READ_BIT` (R114). -/
def execOwReadBit (s : State) : Host.Outcome State Fault Refusal :=
  whenIdle s fun s => whenSync s fun s => startPrim .readBit s

/-- `OW_WRITE_BYTE` (R115): sends ARG. -/
def execOwWriteByte (s : State) : Host.Outcome State Fault Refusal :=
  whenIdle s fun s => whenSync s fun s => startPrim (.writeByte (argByte s)) s

/-- `OW_READ_BYTE` (R116). -/
def execOwReadByte (s : State) : Host.Outcome State Fault Refusal :=
  whenIdle s fun s => whenSync s fun s => startPrim .readByte s

end Sys2Proof.Machine
end

