-- ==== Sys2Proof/Machine/SearchCommands.lean ====
section
/-! DEFINITION. `ENUM_NEXT` and `SEARCH_RESET` (spec/41_search.md R131, R139 to R141), illegal commands
(spec/30_encoding.md R83), and the search command on the bus (R94). -/

namespace Sys2Proof.Machine

/-- `ENUM_NEXT` (R139, R141): exhausted, or a pass through the rows of the sequencer. -/
def execEnumNext (s : State) : Host.Outcome State Fault Refusal :=
  whenIdle s fun s =>
    if s.exh then .next (complete .exhausted false false false (clearSearch s))
    else runToIdle passRows (enterPhase .eReset s)

/-- `SEARCH_RESET` (R140): `SR()` and RESULT 0x00. -/
def execSearchReset (s : State) : Host.Outcome State Fault Refusal :=
  whenIdle s fun s => .next (complete .ok false false false (clearSearch s))

/-- An illegal command (R83): RESULT 0x08 and nothing else. -/
def execIllegal (_c : Byte) (s : State) : Host.Outcome State Fault Refusal :=
  whenIdle s fun s => .next (complete .illegalCmd false false false s)

/-- SEARCH_CMD over the bus (R94): the sequencer's step 3 (R133), its row E_SEARCH (log 11). -/
def execBusSearchRom (s : State) : Host.Outcome State Fault Refusal := .next (searchRow s)

end Sys2Proof.Machine
end

