-- ==== Sys2Proof/Machine/Dispatch.lean ====
section
/-! DEFINITION. One arm per row of spec/opcode_table.json. -/

namespace Sys2Proof.Machine

def exec (i : Instr) (s : State) : Host.Outcome State Fault Refusal :=
  match i with
  | .owReset => Sys2Proof.Machine.execOwReset s
  | .owWriteBit => Sys2Proof.Machine.execOwWriteBit s
  | .owReadBit => Sys2Proof.Machine.execOwReadBit s
  | .owWriteByte => Sys2Proof.Machine.execOwWriteByte s
  | .owReadByte => Sys2Proof.Machine.execOwReadByte s
  | .enumNext => Sys2Proof.Machine.execEnumNext s
  | .searchReset => Sys2Proof.Machine.execSearchReset s
  | .illegal c => Sys2Proof.Machine.execIllegal c s
  | .brSetReadPointer p => Sys2Proof.Machine.execBrSetReadPointer p s
  | .br1wReset => Sys2Proof.Machine.execBr1wReset s
  | .br1wSingleBit b => Sys2Proof.Machine.execBr1wSingleBit b s
  | .br1wWriteByte v => Sys2Proof.Machine.execBr1wWriteByte v s
  | .br1wReadByte => Sys2Proof.Machine.execBr1wReadByte s
  | .busSearchRom => Sys2Proof.Machine.execBusSearchRom s

end Sys2Proof.Machine
end

