-- ==== Sys2Proof/Machine/HostPort.lean ====
section
/-! DEFINITION. The host's side in IDLE: reads and writes of the register space (spec/20_memory.md R56 to R59) and what
the controller turns to next. -/

namespace Sys2Proof.Machine

/-- `HostRead(addr)` (R56, R58): no side effect on the controller; the byte is the host's observation
(spec/30_encoding.md R87). A register without a value is an unwritten read (spec/60_exceptions.md R177). -/
def hostRead (a : Byte) (s : State) : Host.Outcome State Fault Refusal :=
  match peek a s with
  | some v => .next { s with seen := (a, v) :: s.seen }
  | none => .fault .unwrittenRead

/-- A `HostWrite` to any address but CMD (R58): ARG is stored, everything else ignores it. -/
def hostStore (a v : Byte) (s : State) : State :=
  if a = 0x01#8 then { s with arg := v } else s

/-- A host access in IDLE: a write to CMD is a command, the rest is over at once. -/
def hostAccess (x : HostAccess) (s : State) : Turn :=
  match x with
  | .read a => .over (hostRead a s)
  | .write a v => if a = 0x00#8 then .command v s else .over (.next (hostStore a v s))

/-- The host's next access, or waiting in IDLE (spec/70_reset_and_hazards.md R190, log 21). -/
def hostTurn (s : State) : Turn :=
  match s.host with
  | x :: rest => hostAccess x { s with host := rest }
  | [] => .over (.next s)

/-- What happens next. Outside IDLE the sequencer steps. In IDLE a due arrival comes first: a second host's access
finds the controller free, the reset input resets it; then the host's own next access (log 8). -/
def nextTurn (s : State) : Turn :=
  if isIdle s.phase then
    match s.arrivals with
    | (0, .access x) :: rest => hostAccess x { s with arrivals := rest }
    | (0, .resetInput) :: rest => .over (.next (resetController { s with arrivals := rest }))
    | (k + 1, a) :: rest => hostTurn { s with arrivals := (k, a) :: rest }
    | [] => hostTurn s
  else .over (sequencerStep s)

end Sys2Proof.Machine
end

