-- ==== Sys2Proof/Machine/Step.lean ====
section
/-! DEFINITION. One step of the machine: the host's next access taken to its end (spec/10_state.md R31,
spec/20_memory.md R59), or, mid-command, one row of the sequencer (spec/41_search.md R141). -/

namespace Sys2Proof.Machine

/-- One step. A byte written to CMD is decoded and its command runs until the controller is back in IDLE (R31, log 7). -/
def step (s : State) : Host.Outcome State Fault Refusal :=
  match nextTurn s with
  | .command c t => exec (decodeCmd c) t
  | .over o => o

/-- The state in which the host's very next access writes the table word's byte to CMD, with the controller in IDLE and
nothing else arriving (log 12). -/
def State.withFetchWord (s : State) (nbits w : Nat) : State :=
  if nbits ≤ 8 then { s with phase := .idle, arrivals := [], host := .write 0x00#8 (tableByte w) :: s.host } else s

end Sys2Proof.Machine
end

