-- ==== Sys2Proof/Machine/Assembler.lean ====
section
/-! DEFINITION. Host programs (spec/30_encoding.md R87, R88) in abstract syntax: lines and pseudo-instructions, and the
host accesses they stand for (log 23). -/

namespace Sys2Proof.Machine

/-- The register names of spec/20_memory.md R57. -/
inductive RegName where
  | cmd
  | arg
  | result
  | data
  | stLd
  | stLfd
  | stFlags
  | idOut (i : Fin 8)
  deriving DecidableEq, Repr

/-- A register by its name, or a raw address `@0xNN` (R87). -/
inductive RegRef where
  | name (r : RegName)
  | raw (a : Byte)
  deriving DecidableEq, Repr

/-- One line of a host program, or one pseudo-instruction (R87, R88). -/
inductive SourceLine where
  | wr (r : RegRef) (imm : Nat)
  | rd (r : RegRef)
  | owReset
  | owWriteBit (b : Nat)
  | owReadBit
  | owWriteByte (imm : Nat)
  | owReadByte
  | enumNext
  | searchReset
  | rdId
  | rdState
  deriving DecidableEq, Repr

/-- The addresses of R57. -/
def regAddr : RegName → Byte
  | .cmd => 0x00#8
  | .arg => 0x01#8
  | .result => 0x02#8
  | .data => 0x03#8
  | .stLd => 0x04#8
  | .stLfd => 0x05#8
  | .stFlags => 0x06#8
  | .idOut i => 0x08#8 + BitVec.ofNat 8 i.val

/-- The address a register reference names. -/
def refAddr : RegRef → Byte
  | .name r => regAddr r
  | .raw a => a

/-- `WR`: the value must be in the range 0 to 255 (R87). -/
def writeLine (r : RegRef) (imm : Nat) : Option (List HostAccess) :=
  if imm ≤ 255 then some [.write (refAddr r) (BitVec.ofNat 8 imm)] else none

/-- A command without an operand: `WR CMD, c`. -/
def commandLine (c : Byte) : Option (List HostAccess) := some [.write (regAddr .cmd) c]

/-- A command with its operand: `WR ARG, v` then `WR CMD, c` (R88). -/
def operandLine (v : Nat) (c : Byte) : Option (List HostAccess) :=
  if v ≤ 255 then some [.write (regAddr .arg) (BitVec.ofNat 8 v), .write (regAddr .cmd) c] else none

/-- Reads of several registers in order. -/
def readLines (rs : List RegName) : Option (List HostAccess) := some (rs.map fun r => .read (regAddr r))

/-- What a line stands for (R87, R88); `none` is an assembler error. -/
def assembleLine : SourceLine → Option (List HostAccess)
  | .wr r imm => writeLine r imm
  | .rd r => some [.read (refAddr r)]
  | .owReset => commandLine 0x01#8
  | .owWriteBit b => if b ≤ 1 then operandLine b 0x02#8 else none
  | .owReadBit => commandLine 0x03#8
  | .owWriteByte imm => operandLine imm 0x04#8
  | .owReadByte => commandLine 0x05#8
  | .enumNext => commandLine 0x10#8
  | .searchReset => commandLine 0x11#8
  | .rdId => readLines [.idOut 0, .idOut 1, .idOut 2, .idOut 3, .idOut 4, .idOut 5, .idOut 6, .idOut 7]
  | .rdState => readLines [.stLd, .stLfd, .stFlags]

/-- A whole program: the accesses of its lines in order (R87). -/
def assemble : List SourceLine → Option (List HostAccess)
  | [] => some []
  | l :: rest =>
    match assembleLine l, assemble rest with
    | some xs, some ys => some (xs ++ ys)
    | _, _ => none

end Sys2Proof.Machine
end

