-- ==== Sys2Proof/Machine/EnumRule.lean ====
section
/-! DEFINITION. `ENUM_NEXT` as the one rule of spec/41_search.md R139, written as its loop and not as the rows of the
sequencer (R141). The machine runs the rows; that both agree is a statement. -/

namespace Sys2Proof.Machine

/-- `dir <- (n < LD) ? ROM[n-1] : ((n = LD) ? 1 : 0)` at a discrepancy, `dir <- id_bit` elsewhere (R139). -/
def ruleDir (idB cmpB : Bool) (s : State) : Option Bool :=
  match idB, cmpB with
  | true, false => some true
  | false, true => some false
  | true, true | false, false =>
    if s.n.toNat < s.ld.toNat then romBit s (s.n - 1#7).toNat
    else if s.n = s.ld then some true
    else some false

/-- `if disc and dir = 0: last_zero <- n; if n <= 8: LFD <- n`, then `ROM[n-1] <- dir` (R139). -/
def ruleRecord (disc d : Bool) (s : State) : State :=
  let marked : State :=
    if disc = true ∧ d = false then
      (if s.n.toNat ≤ 8 then { s with lastZero := s.n, lfd := s.n.setWidth 4 } else { s with lastZero := s.n })
    else s
  writeRom (s.n - 1#7).toNat d { marked with dir := d }

/-- The lines after the loop (R139): the check of ROM[7:0], then the copy of all of ROM; a bit that no pass wrote is an
unwritten read (spec/60_exceptions.md R177). -/
def ruleEnd (s : State) : Host.Outcome State Fault Refusal :=
  let s1 : State :=
    if s.lastZero = 0#7 then { s with ld := s.lastZero, exh := true } else { s with ld := s.lastZero }
  if idByte s.romWritten 0 ≠ 0xFF#8 then .fault .unwrittenRead
  else if idByte s.rom 0 = 0x00#8 then .next (complete .zeroFamily false true false (clearSearch s1))
  else if s.romWritten ≠ BitVec.allOnes 64 then .fault .unwrittenRead
  else .next (complete .ok true true false (publishId s1))

/-- `while n <= 64`, with the number of positions still to come (R139). -/
def ruleLoop : Nat → State → Host.Outcome State Fault Refusal
  | 0, s => ruleEnd s
  | left + 1, s =>
    match primOutcome .readBit s with
    | .err e => .next (abort (errorCode e) (afterPrim .readBit s))
    | .ok v1 =>
      let s1 := latchId v1.bit (afterPrim .readBit s)
      match primOutcome .readBit s1 with
      | .err e => .next (abort (errorCode e) (afterPrim .readBit s1))
      | .ok v2 =>
        let s2 := latchCmp v2.bit (afterPrim .readBit s1)
        if v1.bit = true ∧ v2.bit = true then .next (abort .noResponse s2)
        else match ruleDir v1.bit v2.bit s2 with
          | none => .fault .unwrittenRead
          | some d =>
            let s3 := ruleRecord (v1.bit == v2.bit) d s2
            match primOutcome (.writeBit d) s3 with
            | .err e => .next (abort (errorCode e) (afterPrim (.writeBit d) s3))
            | .ok _ => ruleLoop left (nextPosition (afterPrim (.writeBit d) s3))

/-- `ENUM_NEXT` (R139). -/
def enumRule (s : State) : Host.Outcome State Fault Refusal :=
  if s.exh = true then .next (complete .exhausted false false false (clearSearch s))
  else match primOutcome .reset s with
    | .err e => .next (complete (errorCode e) false false false (clearSearch (latchReset false false
        (afterPrim .reset s))))
    | .ok v =>
      let s1 := latchReset v.presence v.short (afterPrim .reset s)
      if v.short = true then .next (abort .short s1)
      else if v.presence = false then .next (abort .noPresence s1)
      else match primOutcome (.writeByte s1.params.searchCmd) s1 with
        | .err e => .next (abort (errorCode e) (afterPrim (.writeByte s1.params.searchCmd) s1))
        | .ok _ => ruleLoop 64 (startRounds (afterPrim (.writeByte s1.params.searchCmd) s1))

end Sys2Proof.Machine
end

