-- ==== Sys2Proof/Machine/Instances.lean ====
section
/-! DEFINITION. Several controllers, one bus each (spec/10_state.md R40, spec/60_exceptions.md R182): a list of
states, one of which steps. -/

namespace Sys2Proof.Machine

/-- Instance `k` steps; where there is no such instance nothing happens (log 22). A model fault of instance `k` ends the
run of the whole list: no rule says what the other instances do then, and this is the model's choice (logs 22, 27). So is that the instances' environments draw from the same free values, which know no
instance: two instances with equal `env.draws` and nothing fixed meet equal answers (DESIGN CHOICE, logs 2 and 22). -/
def stepInstance (k : Nat) (ms : List State) : Host.Outcome (List State) Fault Refusal :=
  match ms[k]? with
  | none => .next ms
  | some s =>
    match step s with
    | .next t => .next (ms.set k t)
    | .fault f => .fault f
    | .refused r => .refused r

end Sys2Proof.Machine
end

