-- ==== Sys2Proof/Machine/SearchOrder.lean ====
section
/-! DEFINITION. The search order (spec/41_search.md R150), the condition R152 keeps between two `ENUM_NEXT` commands,
and repeated `ENUM_NEXT` (R151). -/

namespace Sys2Proof.Machine

/-- The two identifiers agree at every index below `k`. -/
def agreeBelow (a b : Ident) (k : Nat) : Prop := ∀ j, j < k → a.getLsbD j = b.getLsbD j

/-- `a ≺ b` (R150): at the least index where they differ, `a` has 0. -/
def precedes (a b : Ident) : Prop :=
  ∃ k, k < 64 ∧ agreeBelow a b k ∧ a.getLsbD k = false ∧ b.getLsbD k = true

/-- In the pass that follows `d` through the devices `S`, position `p` is a discrepancy taken to 0 (R152): `d` has 0
there and some device that agrees with `d` so far has 1. -/
def zeroBranch (S : List Ident) (d : Ident) (p : Nat) : Prop :=
  1 ≤ p ∧ p ≤ 64 ∧ d.getLsbD (p - 1) = false ∧
    ∃ x ∈ S, agreeBelow x d (p - 1) ∧ x.getLsbD (p - 1) = true

/-- `p` is the greatest such position, or 0 if there is none (R152). -/
def lastBranch (S : List Ident) (d : Ident) (p : Nat) : Prop :=
  (p = 0 ∧ ∀ q, ¬ zeroBranch S d q) ∨ (zeroBranch S d p ∧ ∀ q, zeroBranch S d q → q ≤ p)

/-- Conditions (a) and (b) of R151: the reference bus with devices `S`, nonempty, and no fault laid over it. -/
def onReference (S : List Ident) (s : State) : Prop :=
  s.env.level = .reference ∧ s.env.bus.devices = S ∧ s.env.bus.overlay = [] ∧ S ≠ []

/-- The invariant of R152 before a call: nothing remembered, or ROM holds the device just found and LD the last branch
of its pass. -/
def onTrack (S : List Ident) (s : State) : Prop :=
  s.ld = 0#7 ∨
    (s.romWritten = BitVec.allOnes 64 ∧ s.rom ∈ S ∧ lastBranch S s.rom s.ld.toNat)

/-- `k` successive `ENUM_NEXT` commands (R151, condition (e)). -/
def enumTimes : Nat → State → Host.Outcome State Fault Refusal
  | 0, s => .next s
  | k + 1, s =>
    match exec .enumNext s with
    | .next t => enumTimes k t
    | .fault f => .fault f
    | .refused r => .refused r

end Sys2Proof.Machine
end

