-- ==== Sys2Proof/Safety.lean ====
section
/-! DEFINITION. The terms claims use: what every reachable state keeps (spec/10_state.md R25, R39), the duties of the
host (spec/70_reset_and_hazards.md R194, R195) and safe steps (spec/60_exceptions.md R176). -/

namespace Sys2Proof.Machine

/-- One host, and nothing else arrives: no second host's access and no reset input. -/
def undisturbed (s : State) : Prop := s.phase = .idle ∧ s.arrivals = []

/-- True of the phases after a completed bus reset inside a pass. -/
def afterBusReset : Phase → Bool
  | .eSearch | .eRdId | .eRdCmp | .eWrDir | .eFinish => true
  | .idle | .eReset | .pRun _ => false

/-- True of every phase of `ENUM_NEXT`. -/
def inPass : Phase → Bool
  | .eReset | .eSearch | .eRdId | .eRdCmp | .eWrDir | .eFinish => true
  | .idle | .pRun _ => false

/-- True of the three phases of a round. -/
def inRound : Phase → Bool
  | .eRdId | .eRdCmp | .eWrDir => true
  | .idle | .eReset | .eSearch | .eFinish | .pRun _ => false

/-- How many bits of ROM the running pass has written. -/
def bitsDone (s : State) : Nat :=
  match s.phase with
  | .eRdId | .eRdCmp => s.n.toNat - 1
  | .eWrDir => s.n.toNat
  | .eFinish => 64
  | .idle | .eReset | .eSearch | .pRun _ => 0

/-- What every step keeps, and what is true at reset. The first four fields are R39 (a) to (c) and, through
`bitsDone`, R25 in the form that also holds inside a pass; in IDLE it reads: LD > 0 implies ROM written whole and
equal to ID_OUT. -/
structure Inv (s : State) : Prop where
  ld_le : s.ld.toNat ≤ 64
  lfd_le : s.lfd.toNat ≤ 8
  exh_ld : s.exh = true → s.ld = 0#7
  rom_kept : s.ld ≠ 0#7 → s.romWritten = BitVec.allOnes 64 ∧ s.idWritten = true ∧
    ∀ k, bitsDone s ≤ k → k < 64 → s.rom.getLsbD k = s.idOut.getLsbD k
  exh_pass : inPass s.phase = true → s.exh = false
  bits_written : ∀ k, k < bitsDone s → s.romWritten.getLsbD k = true
  cursor_round : inRound s.phase = true → 1 ≤ s.n.toNat ∧ s.n.toNat ≤ 64
  cursor_end : s.phase = .eFinish → s.n = 65#7
  last_zero_le : inRound s.phase = true ∨ s.phase = .eFinish → s.lastZero.toNat ≤ bitsDone s
  reset_latched : afterBusReset s.phase = true → s.latPpd = true ∧ s.latSd = false ∧ s.busSync = true
  result_legal : ∃ c found ppd sd, s.result = resultByte c found ppd sd ∧ (found = true → c = .ok)

/-- The duties of the host in IDLE: alone on the controller (R194), no bit or byte command before a completed reset
(R195), no read of a register without a value (spec/60_exceptions.md R177). -/
def dutiful (s : State) : Prop :=
  s.phase = .idle ∧ s.arrivals = [] ∧
    match s.host with
    | [] => True
    | .read a :: _ => peek a s ≠ none
    | .write a c :: _ =>
      a = 0x00#8 → (c = 0x02#8 ∨ c = 0x03#8 ∨ c = 0x04#8 ∨ c = 0x05#8) → s.busSync = true

/-- A safe state: the next step raises no model fault (spec/60_exceptions.md R176). -/
def safe (s : State) : Prop := ∀ f, step s ≠ .fault f

/-- The primitives recorded in the log, in the order they were issued. -/
def primsOf : List BusEvent → List Prim
  | [] => []
  | .prim p :: rest => primsOf rest ++ [p]
  | .call _ :: rest => primsOf rest

/-- The transport calls recorded in the log, in the order they were made. -/
def callsOf : List BusEvent → List Call
  | [] => []
  | .call c :: rest => callsOf rest ++ [c]
  | .prim _ :: rest => callsOf rest

/-- The primitives of the rounds from position `p`, `left` of them, that send the bits of `d` (spec/41_search.md
R130). -/
def roundPrims (d : Ident) : Nat → Nat → List Prim
  | 0, _ => []
  | left + 1, p => .readBit :: .readBit :: .writeBit (d.getLsbD (p - 1)) :: roundPrims d left (p + 1)

/-- The controller's own state, without the environment and the hosts: two states agree on it. -/
def sameController (s t : State) : Prop :=
  s = { t with env := s.env, host := s.host, arrivals := s.arrivals, seen := s.seen }

end Sys2Proof.Machine
end

