-- ==== Sys2Proof/Certificates/Slice0/Obligations.lean ====
section
/-! DEFINITION. The statements for the provers. Each docstring names the rules of spec/ it comes from. -/

open Sys2Proof Sys2Proof.Machine

/-! ### Encoding -/

/-- R81 and R83, by the bytes of 95_test_vectors.md 2.1: the seven command bytes, and six illegal ones. -/
def Obligations.CommandBytesReadAsTabled : Prop :=
  decodeCmd 0x01#8 = .owReset ∧ decodeCmd 0x02#8 = .owWriteBit ∧ decodeCmd 0x03#8 = .owReadBit ∧
  decodeCmd 0x04#8 = .owWriteByte ∧ decodeCmd 0x05#8 = .owReadByte ∧ decodeCmd 0x10#8 = .enumNext ∧
  decodeCmd 0x11#8 = .searchReset ∧ decodeCmd 0x00#8 = .illegal 0x00#8 ∧ decodeCmd 0x06#8 = .illegal 0x06#8 ∧
  decodeCmd 0x0F#8 = .illegal 0x0F#8 ∧ decodeCmd 0x12#8 = .illegal 0x12#8 ∧ decodeCmd 0x90#8 = .illegal 0x90#8 ∧
  decodeCmd 0xFF#8 = .illegal 0xFF#8

/-- R81, R90, R93, R94: every well-formed instruction is read back from its own bytes, whatever bytes the parameters
hold, as long as the bridge can tell its commands apart. -/
def Obligations.EveryInstructionReadsBack : Prop :=
  ∀ P : Params, P.wf = true → ∀ i : Instr, i.wf = true → decode P (portOf i) (encode P i) = some i

/-- The other direction: whatever is read at a port is a well-formed instruction of that port with exactly those
bytes. -/
def Obligations.EveryReadingEncodesBack : Prop :=
  ∀ (P : Params) (port : Port) (bs : List Byte) (i : Instr), decode P port bs = some i →
    encode P i = bs ∧ portOf i = port ∧ i.wf = true

/-- R86: where the fields of RESULT lie, and that bit 7 is 0 (R33); and the CODE values of R85, with the outcome each
error of a primitive is reported as (R172). -/
def Obligations.ResultByteHoldsItsFields : Prop :=
  (∀ (c : Code) (found ppd sd : Bool),
    resultCode (resultByte c found ppd sd) = (codeByte c).extractLsb' 0 4 ∧
    resultFound (resultByte c found ppd sd) = found ∧ resultPpd (resultByte c found ppd sd) = ppd ∧
    resultSd (resultByte c found ppd sd) = sd ∧ (resultByte c found ppd sd).getLsbD 7 = false) ∧
  codeByte .ok = 0x00#8 ∧ codeByte .exhausted = 0x01#8 ∧ codeByte .noPresence = 0x02#8 ∧ codeByte .short = 0x03#8 ∧
  codeByte .noResponse = 0x04#8 ∧ codeByte .zeroFamily = 0x05#8 ∧ codeByte .timeout = 0x06#8 ∧
  codeByte .transportError = 0x07#8 ∧ codeByte .illegalCmd = 0x08#8 ∧ codeByte .resetState = 0x0F#8 ∧
  errorCode .timeout = .timeout ∧ errorCode .transportError = .transportError

/-- R88: the expansions of the pseudo-instructions, and the assembler error for a bit operand outside 0 and 1. -/
def Obligations.PseudoInstructionsExpandAsTabled : Prop :=
  assembleLine .owReset = some [.write 0x00#8 0x01#8] ∧
  assembleLine .owReadBit = some [.write 0x00#8 0x03#8] ∧
  assembleLine .owReadByte = some [.write 0x00#8 0x05#8] ∧
  assembleLine .enumNext = some [.write 0x00#8 0x10#8] ∧
  assembleLine .searchReset = some [.write 0x00#8 0x11#8] ∧
  (∀ b : Nat, b ≤ 1 →
    assembleLine (.owWriteBit b) = some [.write 0x01#8 (BitVec.ofNat 8 b), .write 0x00#8 0x02#8]) ∧
  (∀ b : Nat, 1 < b → assembleLine (.owWriteBit b) = none) ∧
  (∀ v : Byte, assembleLine (.owWriteByte v.toNat) = some [.write 0x01#8 v, .write 0x00#8 0x04#8]) ∧
  assembleLine .rdId = some [.read 0x08#8, .read 0x09#8, .read 0x0A#8, .read 0x0B#8, .read 0x0C#8, .read 0x0D#8,
    .read 0x0E#8, .read 0x0F#8] ∧
  assembleLine .rdState = some [.read 0x04#8, .read 0x05#8, .read 0x06#8]

/-! ### Steps and the host port -/

/-- R31, R59, R80: with the controller idle and nobody else about, the byte written to CMD is decoded and its command
runs, the access used up. -/
def Obligations.StepRunsTheCommandWritten : Prop :=
  ∀ (s : State) (c : Byte) (rest : List HostAccess), undisturbed s → s.host = .write 0x00#8 c :: rest →
    step s = exec (decodeCmd c) { s with host := rest }

/-- R58, every clause: what host accesses do beside the value a read returns. The observation of a read is the model's
own field `seen` (log 17). -/
def Obligations.HostAccessSideEffects : Prop :=
  ∀ (s : State) (rest : List HostAccess), undisturbed s →
    (∀ c : Byte, s.host = .write 0x00#8 c :: rest → step s = exec (decodeCmd c) { s with host := rest }) ∧
    (∀ v : Byte, s.host = .write 0x01#8 v :: rest → step s = .next { s with host := rest, arg := v }) ∧
    (∀ a v : Byte, a ≠ 0x00#8 → a ≠ 0x01#8 → s.host = .write a v :: rest → step s = .next { s with host := rest }) ∧
    (∀ a : Byte, s.host = .read a :: rest →
      (∃ v, step s = .next { s with host := rest, seen := (a, v) :: s.seen }) ∨ step s = .fault .unwrittenRead) ∧
    (∀ a : Byte, s.host = .read a :: rest → a = 0x00#8 ∨ a = 0x07#8 ∨ 0x10#8 ≤ a →
      step s = .next { s with host := rest, seen := (a, 0x00#8) :: s.seen }) ∧
    (∀ a : Byte, s.host = .read a :: rest →
      (a = 0x03#8 ∧ s.dataWritten = false) ∨ (0x08#8 ≤ a ∧ a ≤ 0x0F#8 ∧ s.idWritten = false) →
      step s = .fault .unwrittenRead)

/-- R57 with R32, R33, R35 to R37: the byte each readable register returns. -/
def Obligations.HostReadsFollowRegisterMap : Prop :=
  ∀ (s : State) (rest : List HostAccess) (a : Byte), undisturbed s → s.host = .read a :: rest →
    (a = 0x01#8 → step s = .next { s with host := rest, seen := (a, s.arg) :: s.seen }) ∧
    (a = 0x02#8 → step s = .next { s with host := rest, seen := (a, s.result) :: s.seen }) ∧
    (a = 0x03#8 → s.dataWritten = true → step s = .next { s with host := rest, seen := (a, s.data) :: s.seen }) ∧
    (a = 0x04#8 → step s = .next { s with host := rest, seen := (a, s.ld.setWidth 8) :: s.seen }) ∧
    (a = 0x05#8 → step s = .next { s with host := rest, seen := (a, s.lfd.setWidth 8) :: s.seen }) ∧
    (a = 0x06#8 → step s = .next { s with
      host := rest
      seen := (a, (if s.busSync then 0x02#8 else 0x00#8) ||| (if s.exh then 0x01#8 else 0x00#8)) :: s.seen }) ∧
    (∀ i : Nat, i < 8 → a = BitVec.ofNat 8 (8 + i) → s.idWritten = true →
      step s = .next { s with host := rest, seen := (a, s.idOut.extractLsb' (8 * i) 8) :: s.seen })

/-- R177, R38, R58: where the fault of an unwritten read is raised, and that nothing else raises it: by a host read of
DATA or ID_OUT exactly while it has no value, so never once it was written; by a retrace exactly when its ROM bit was
written by no pass; by the end of a pass exactly when the family byte, or the identifier to copy, has such a bit; and by
no other row. That the last two are never reached is DutifulHostIsNeverStopped. -/
def Obligations.UnwrittenReadExactlyWhereNoValue : Prop :=
  (∀ (s : State) (a : Byte) (rest : List HostAccess), undisturbed s → s.host = .read a :: rest →
    (step s = .fault .unwrittenRead ↔
      (a = 0x03#8 ∧ s.dataWritten = false) ∨ (0x08#8 ≤ a ∧ a ≤ 0x0F#8 ∧ s.idWritten = false))) ∧
  (∀ (s : State) (v : PrimValue), s.phase = .eRdCmp → s.arrivals = [] → 1 ≤ s.n.toNat → s.n.toNat ≤ 64 →
    primOutcome .readBit s = .ok v →
    (step s = .fault .unwrittenRead ↔ s.idBit = false ∧ v.bit = false ∧ s.n.toNat < s.ld.toNat ∧
      s.romWritten.getLsbD (s.n.toNat - 1) = false)) ∧
  (∀ s : State, s.phase = .eFinish → s.arrivals = [] →
    (step s = .fault .unwrittenRead ↔ (∃ k, k < 8 ∧ s.romWritten.getLsbD k = false) ∨
      (s.rom.extractLsb' 0 8 ≠ 0x00#8 ∧ ∃ k, k < 64 ∧ s.romWritten.getLsbD k = false))) ∧
  (∀ s : State, s.phase ≠ .idle → s.phase ≠ .eRdCmp → s.phase ≠ .eFinish → s.arrivals = [] →
    step s ≠ .fault .unwrittenRead)

/-- R194: any host access outside IDLE is HOST_OVERLAP, whether a second host's access arrives or a command is
written; a single blocking host never causes it. The model's choices in it: that another host's access is an entry of
`arrivals` due now (log 8), and that `exec` of a host command outside IDLE stands for its CMD write (log 20). -/
def Obligations.OverlappingAccessFaults : Prop :=
  (∀ (s : State) (x : HostAccess) (rest : List (Nat × Arrival)), s.phase ≠ .idle →
    s.arrivals = (0, .access x) :: rest → step s = .fault .hostOverlap) ∧
  (∀ (s : State) (i : Instr), portOf i = .cmd → s.phase ≠ .idle → exec i s = .fault .hostOverlap) ∧
  (∀ s : State, s.arrivals = [] → step s ≠ .fault .hostOverlap)

/-- R194 inside a command: the access of a second host that arrives before the first row of a running command stops
it. That `exec` here takes a due access as arriving after the command has left IDLE and before its first row is the
model's choice (log 8); a `step` in IDLE takes the same access as an ordinary one. -/
def Obligations.OverlapStopsRunningCommand : Prop :=
  ∀ (s : State) (x : HostAccess) (rest : List (Nat × Arrival)), s.phase = .idle →
    s.arrivals = (0, .access x) :: rest →
    exec .owReset s = .fault .hostOverlap ∧
    (s.busSync = true → ∀ i ∈ [Instr.owWriteBit, .owReadBit, .owWriteByte, .owReadByte],
      exec i s = .fault .hostOverlap) ∧
    (s.exh = false → exec .enumNext s = .fault .hostOverlap)

/-- R190, R191: the state at power-up, and the same values when the reset input is asserted in any phase, with the
bridge, the bus, the hosts and the parameters untouched. "No value" is the marks `romWritten`, `dataWritten` and
`idWritten`; the zeros the model holds there (logs 4, 5 and 6) are not part of the statement. Without a CMD write the
controller waits. R191 speaks of the bridge and the bus only: that the reset input also keeps the hosts' pending accesses,
their record, the other arrivals and the parameters is the model's choice (log 19). -/
def Obligations.ResetLeavesTheStatedValues : Prop :=
  (∀ s : State, (s = State.reset ∨ ∃ (s0 : State) (rest : List (Nat × Arrival)),
      s0.arrivals = (0, .resetInput) :: rest ∧ step s0 = .next s) →
    s.phase = .idle ∧ s.ld = 0#7 ∧ s.lfd = 0#4 ∧ s.exh = false ∧ s.busSync = false ∧ s.arg = 0x00#8 ∧
    s.result = 0x0F#8 ∧ s.romWritten = 0#64 ∧ s.dataWritten = false ∧ s.idWritten = false) ∧
  (∀ (s0 : State) (rest : List (Nat × Arrival)), s0.arrivals = (0, .resetInput) :: rest →
    ∃ s, step s0 = .next s ∧ s.env = s0.env ∧ s.params = s0.params ∧ s.host = s0.host ∧ s.seen = s0.seen ∧
      s.arrivals = rest) ∧
  step State.reset = .next State.reset

/-! ### The bus commands -/

/-- R112: `OW_RESET` reports presence and short whatever they are, or the error; nothing but RESULT, BUS_SYNC and the
environment changes. -/
def Obligations.OwResetReportsTheReset : Prop :=
  ∀ s : State, undisturbed s →
    (∀ v, (primRun s.params .reset s.env).1 = .ok v → exec .owReset s = .next { s with
      env := (primRun s.params .reset s.env).2, busSync := true
      result := resultByte .ok false v.presence v.short }) ∧
    (∀ e, (primRun s.params .reset s.env).1 = .err e → exec .owReset s = .next { s with
      env := (primRun s.params .reset s.env).2, busSync := false
      result := resultByte (errorCode e) false false false })

/-- R113: `OW_WRITE_BIT` sends ARG[0], needs BUS_SYNC, and changes nothing but RESULT and, on an error, BUS_SYNC. -/
def Obligations.OwWriteBitSendsArgBit : Prop :=
  ∀ s : State, undisturbed s →
    (s.busSync = false → exec .owWriteBit s = .fault .hazardBusUndefined) ∧
    (s.busSync = true →
      (∀ v, (primRun s.params (.writeBit (s.arg.getLsbD 0)) s.env).1 = .ok v → exec .owWriteBit s = .next { s with
        env := (primRun s.params (.writeBit (s.arg.getLsbD 0)) s.env).2, result := 0x00#8 }) ∧
      (∀ e, (primRun s.params (.writeBit (s.arg.getLsbD 0)) s.env).1 = .err e → exec .owWriteBit s = .next { s with
        env := (primRun s.params (.writeBit (s.arg.getLsbD 0)) s.env).2, busSync := false
        result := resultByte (errorCode e) false false false }))

/-- R114: `OW_READ_BIT` writes the bit to DATA only when the read completes. -/
def Obligations.OwReadBitFillsData : Prop :=
  ∀ s : State, undisturbed s →
    (s.busSync = false → exec .owReadBit s = .fault .hazardBusUndefined) ∧
    (s.busSync = true →
      (∀ v, (primRun s.params .readBit s.env).1 = .ok v → exec .owReadBit s = .next { s with
        env := (primRun s.params .readBit s.env).2, result := 0x00#8
        data := if v.bit then 0x01#8 else 0x00#8, dataWritten := true }) ∧
      (∀ e, (primRun s.params .readBit s.env).1 = .err e → exec .owReadBit s = .next { s with
        env := (primRun s.params .readBit s.env).2, busSync := false
        result := resultByte (errorCode e) false false false }))

/-- R115: `OW_WRITE_BYTE` sends all of ARG. -/
def Obligations.OwWriteByteSendsArg : Prop :=
  ∀ s : State, undisturbed s →
    (s.busSync = false → exec .owWriteByte s = .fault .hazardBusUndefined) ∧
    (s.busSync = true →
      (∀ v, (primRun s.params (.writeByte s.arg) s.env).1 = .ok v → exec .owWriteByte s = .next { s with
        env := (primRun s.params (.writeByte s.arg) s.env).2, result := 0x00#8 }) ∧
      (∀ e, (primRun s.params (.writeByte s.arg) s.env).1 = .err e → exec .owWriteByte s = .next { s with
        env := (primRun s.params (.writeByte s.arg) s.env).2, busSync := false
        result := resultByte (errorCode e) false false false }))

/-- R116: `OW_READ_BYTE` writes the byte to DATA only when the read completes. -/
def Obligations.OwReadByteFillsData : Prop :=
  ∀ s : State, undisturbed s →
    (s.busSync = false → exec .owReadByte s = .fault .hazardBusUndefined) ∧
    (s.busSync = true →
      (∀ v, (primRun s.params .readByte s.env).1 = .ok v → exec .owReadByte s = .next { s with
        env := (primRun s.params .readByte s.env).2, result := 0x00#8
        data := v.byte, dataWritten := true }) ∧
      (∀ e, (primRun s.params .readByte s.env).1 = .err e → exec .owReadByte s = .next { s with
        env := (primRun s.params .readByte s.env).2, busSync := false
        result := resultByte (errorCode e) false false false }))

/-- R83: the illegal bytes, and that such a command writes RESULT 0x08 and nothing else. -/
def Obligations.IllegalCommandWritesOnlyResult : Prop :=
  (∀ c : Byte, (c = 0x00#8 ∨ (0x06#8 ≤ c ∧ c ≤ 0x0F#8) ∨ 0x12#8 ≤ c) ↔ decodeCmd c = .illegal c) ∧
  (∀ (c : Byte) (s : State), s.phase = .idle → exec (.illegal c) s = .next { s with result := 0x08#8 })

/-- R195: the hazard, what is always allowed, and what lifts it. -/
def Obligations.BusHazardIsRaisedAndLifted : Prop :=
  State.reset.busSync = false ∧
  (∀ s : State, undisturbed s →
    (s.busSync = false → ∀ i ∈ [Instr.owWriteBit, .owReadBit, .owWriteByte, .owReadByte],
      exec i s = .fault .hazardBusUndefined) ∧
    (∀ i ∈ [Instr.owReset, .owWriteBit, .owReadBit, .owWriteByte, .owReadByte, .enumNext], ∀ t,
      exec i s = .next t → t.result &&& 0x0F#8 = 0x06#8 ∨ t.result &&& 0x0F#8 = 0x07#8 → t.busSync = false) ∧
    (∃ t, exec .owReset s = .next t ∧ (t.result &&& 0x0F#8 = 0x00#8 → t.busSync = true)) ∧
    (∃ t, exec .searchReset s = .next t) ∧
    (∀ c, ∃ t, exec (.illegal c) s = .next t) ∧
    exec .enumNext s ≠ .fault .hazardBusUndefined ∧
    (∀ v t, s.exh = false → (primRun s.params .reset s.env).1 = .ok v → exec .enumNext s = .next t →
      t.result &&& 0x0F#8 ≠ 0x06#8 → t.result &&& 0x0F#8 ≠ 0x07#8 → t.busSync = true))

/-! ### Level T -/

/-- R103 to R105: a busy-wait makes only status reads, at least one; it ends `OK` on a byte that is not busy, with
TRANSPORT_ERROR on a failed read, with TIMEOUT only after a busy one. Poll by poll: not busy ends it with that byte; a
failed read ends it at once; a busy read whose timer draw is true ends it with TIMEOUT; one whose draw is false is
followed by another poll, with one less left of the bound, which is the model's form of T_BUSY_TIMEOUT (log 3). -/
def Obligations.BusyWaitEndsAsItsPollsSay : Prop :=
  ∀ (P : Params) (fuel : Nat) (e : Env),
    (∃ m, 1 ≤ m ∧ callsOf (busyWait P fuel e).2.log =
      callsOf e.log ++ List.replicate m (.sendRecv [P.bcSrp, P.ptrStatus])) ∧
    (∀ st, (busyWait P fuel e).1 = .ok st → st.getLsbD 0 = false ∧ (busyWait P fuel e).2.reply = .ok st) ∧
    ((busyWait P fuel e).1 = .err .transportError → (busyWait P fuel e).2.reply = .fail) ∧
    ((busyWait P fuel e).1 = .err .timeout → ∃ st, st.getLsbD 0 = true ∧ (busyWait P fuel e).2.reply = .ok st) ∧
    (∀ st rest, e.replies = .ok st :: rest → st.getLsbD 0 = false → busyWait P fuel e = (.ok st, { e with
      replies := rest, reply := .ok st, log := .call (.sendRecv [P.bcSrp, P.ptrStatus]) :: e.log })) ∧
    (∀ rest, e.replies = .fail :: rest → busyWait P fuel e = (.err .transportError, { e with
      replies := rest, reply := .fail, log := .call (.sendRecv [P.bcSrp, P.ptrStatus]) :: e.log })) ∧
    (∀ st rest more, e.replies = .ok st :: rest → st.getLsbD 0 = true → e.timers = true :: more →
      busyWait P (fuel + 1) e = (.err .timeout, { e with
        replies := rest, timers := more, reply := .ok st
        log := .call (.sendRecv [P.bcSrp, P.ptrStatus]) :: e.log })) ∧
    (∀ st rest more, e.replies = .ok st :: rest → st.getLsbD 0 = true → e.timers = false :: more →
      busyWait P (fuel + 1) e = busyWait P fuel { e with
        replies := rest, timers := more, reply := .ok st
        log := .call (.sendRecv [P.bcSrp, P.ptrStatus]) :: e.log })

/-- R95, R106 to R110: the calls of a primitive that completes: status reads, its one string, status reads, and for
`P.ReadByte` the data pointer and the register read. -/
def Obligations.CompletedPrimitiveMakesItsCalls : Prop :=
  ∀ (P : Params) (e : Env) (p : Prim) (v : PrimValue), e.level = .transactions →
    (primRun P p e).1 = .ok v →
    ∃ a b, 1 ≤ a ∧ 1 ≤ b ∧ callsOf (primRun P p e).2.log = callsOf e.log ++
      List.replicate a (.sendRecv [P.bcSrp, P.ptrStatus]) ++
      [.send (match p with
        | .reset => [P.bc1wrs]
        | .writeBit x => [P.bc1wsb, if x then 0x80#8 else 0x00#8]
        | .readBit => [P.bc1wsb, 0x80#8]
        | .writeByte x => [P.bc1wwb, x]
        | .readByte => [P.bc1wrb])] ++
      List.replicate b (.sendRecv [P.bcSrp, P.ptrStatus]) ++
      (if p = .readByte then [.send [P.bcSrp, P.ptrData], .readReg] else [])

/-- R106 to R110 with R111's minimum counts: each primitive on a bridge that is never busy and never fails. The result
is in the status byte that ended the post-wait (R41), the byte read in the data register's reply. -/
def Obligations.PrimitivesOnAnIdleBridge : Prop :=
  ∀ (P : Params) (e : Env) (st0 ack st1 : Byte) (rest : List Reply), e.level = .transactions →
    e.replies = .ok st0 :: .ok ack :: .ok st1 :: rest → st0.getLsbD 0 = false → st1.getLsbD 0 = false →
    (∀ (p : Prim) (bs : List Byte), (p, bs) ∈ [(Prim.reset, [P.bc1wrs]), (.writeBit true, [P.bc1wsb, 0x80#8]),
        (.writeBit false, [P.bc1wsb, 0x00#8]), (.readBit, [P.bc1wsb, 0x80#8])] ∨
        (∃ x, p = .writeByte x ∧ bs = [P.bc1wwb, x]) →
      primRun P p e =
        (.ok { presence := decide (p = .reset) && st1.getLsbD 1, short := decide (p = .reset) && st1.getLsbD 2,
               bit := decide (p = .readBit) && st1.getLsbD 5, byte := 0x00#8 },
         { e with
            replies := rest, reply := .ok st1
            log := .call (.sendRecv [P.bcSrp, P.ptrStatus]) :: .call (.send bs) ::
              .call (.sendRecv [P.bcSrp, P.ptrStatus]) :: .prim p :: e.log })) ∧
    (∀ (ack' d : Byte) (rest' : List Reply), rest = .ok ack' :: .ok d :: rest' →
      primRun P .readByte e =
        (.ok { presence := false, short := false, bit := false, byte := d },
         { e with
            replies := rest', reply := .ok d
            log := .call .readReg :: .call (.send [P.bcSrp, P.ptrData]) ::
              .call (.sendRecv [P.bcSrp, P.ptrStatus]) :: .call (.send [P.bc1wrb]) ::
              .call (.sendRecv [P.bcSrp, P.ptrStatus]) :: .prim .readByte :: e.log }))

/-- R63, R102, R110, R173: whichever of its calls is answered `fail`, that call is the primitive's last, it is not
retried, and the outcome is TRANSPORT_ERROR: `pre` are the answers before the failing one, `calls` the calls made. The
other way round, a primitive that ends in TRANSPORT_ERROR made as its last call one that was answered `fail`; one that
ends in TIMEOUT made as its last call a status read that was answered busy. -/
def Obligations.FailedPrimitiveStopsAtOnce : Prop :=
  ∀ (P : Params) (e : Env) (p : Prim), e.level = .transactions →
    (∀ pre rest calls, e.replies = pre ++ .fail :: rest →
      callsOf (primRun P p e).2.log = callsOf e.log ++ calls → pre.length < calls.length →
      calls.length = pre.length + 1 ∧ (primRun P p e).1 = .err .transportError ∧
        (primRun P p e).2.replies = rest ∧ (primRun P p e).2.reply = .fail) ∧
    ((primRun P p e).1 = .err .transportError → (primRun P p e).2.reply = .fail ∧
      ∃ calls last, callsOf (primRun P p e).2.log = callsOf e.log ++ calls ++ [last]) ∧
    ((primRun P p e).1 = .err .timeout →
      (∃ st, st.getLsbD 0 = true ∧ (primRun P p e).2.reply = .ok st) ∧
      ∃ calls, callsOf (primRun P p e).2.log = callsOf e.log ++ calls ++ [.sendRecv [P.bcSrp, P.ptrStatus]])

/-- R103, R106 to R110, the vectors T10 to T12 of 95_test_vectors.md for every primitive: the first status read, the
primitive's own string and, for `P.ReadByte`, the data pointer and the register read, each answered `fail`: the outcome
is TRANSPORT_ERROR and nothing is sent after it. -/
def Obligations.EveryFailingCallEndsItsPrimitive : Prop :=
  ∀ (P : Params) (e : Env), e.level = .transactions →
    (∀ (p : Prim) (bs : List Byte), (p, bs) ∈ [(Prim.reset, [P.bc1wrs]), (.writeBit true, [P.bc1wsb, 0x80#8]),
        (.writeBit false, [P.bc1wsb, 0x00#8]), (.readBit, [P.bc1wsb, 0x80#8]), (.readByte, [P.bc1wrb])] ∨
        (∃ x, p = .writeByte x ∧ bs = [P.bc1wwb, x]) →
      (∀ rest, e.replies = .fail :: rest → primRun P p e = (.err .transportError, { e with
        replies := rest, reply := .fail
        log := .call (.sendRecv [P.bcSrp, P.ptrStatus]) :: .prim p :: e.log })) ∧
      (∀ st rest, e.replies = .ok st :: .fail :: rest → st.getLsbD 0 = false →
        primRun P p e = (.err .transportError, { e with
          replies := rest, reply := .fail
          log := .call (.send bs) :: .call (.sendRecv [P.bcSrp, P.ptrStatus]) :: .prim p :: e.log }))) ∧
    (∀ st ack st' rest, e.replies = .ok st :: .ok ack :: .ok st' :: .fail :: rest → st.getLsbD 0 = false →
      st'.getLsbD 0 = false → primRun P .readByte e = (.err .transportError, { e with
        replies := rest, reply := .fail
        log := .call (.send [P.bcSrp, P.ptrData]) :: .call (.sendRecv [P.bcSrp, P.ptrStatus]) ::
          .call (.send [P.bc1wrb]) :: .call (.sendRecv [P.bcSrp, P.ptrStatus]) :: .prim .readByte :: e.log })) ∧
    (∀ st ack st' ack' rest, e.replies = .ok st :: .ok ack :: .ok st' :: .ok ack' :: .fail :: rest →
      st.getLsbD 0 = false → st'.getLsbD 0 = false → primRun P .readByte e = (.err .transportError, { e with
        replies := rest, reply := .fail
        log := .call .readReg :: .call (.send [P.bcSrp, P.ptrData]) :: .call (.sendRecv [P.bcSrp, P.ptrStatus]) ::
          .call (.send [P.bc1wrb]) :: .call (.sendRecv [P.bcSrp, P.ptrStatus]) :: .prim .readByte :: e.log }))

/-- R100, R111: every outcome of level P is produced by some transport answers, and level T produces no other. -/
def Obligations.LevelsAdmitTheSameOutcomes : Prop :=
  (∀ (P : Params) (e : Env) (p : Prim) (a : Answer), ∃ replies timers,
    (primRun P p { e with level := .transactions, replies := replies, timers := timers }).1 =
      (primRun P p { e with level := .primitives, answers := [a] }).1) ∧
  (∀ (P : Params) (e : Env) (p : Prim), ∃ a : Answer,
    (primRun P p e).1 = (primRun P p { e with level := .primitives, answers := [a] }).1)

/-- R89, R90, R93: each transaction string is one transport call with exactly its bytes, answered by the next fixed
reply or by a free one, and nothing else changes. -/
def Obligations.BridgeStringsAreOneCallEach : Prop :=
  ∀ (s : State) (v : Byte) (i : Instr) (c : Call),
    (i, c) ∈ [(Instr.brSetReadPointer .status, Call.sendRecv [s.params.bcSrp, s.params.ptrStatus]),
      (.brSetReadPointer .data, .send [s.params.bcSrp, s.params.ptrData]), (.br1wReset, .send [s.params.bc1wrs]),
      (.br1wSingleBit true, .send [s.params.bc1wsb, 0x80#8]), (.br1wSingleBit false, .send [s.params.bc1wsb, 0x00#8]),
      (.br1wWriteByte v, .send [s.params.bc1wwb, v]), (.br1wReadByte, .send [s.params.bc1wrb])] →
    (∀ r rest, s.env.replies = r :: rest → exec i s = .next { s with
      env := { s.env with replies := rest, reply := r, log := .call c :: s.env.log } }) ∧
    (s.env.replies = [] → exec i s = .next { s with
      env := { s.env with
        reply := Config.freeReply s.env.draws, draws := s.env.draws + 1, log := .call c :: s.env.log } })

/-! ### The rows of the sequencer -/

/-- R132: the row E_RESET. Short before presence; PPD and SD latched; an error leaves them 0 in RESULT (R34). That the
latches are the fields `latPpd` and `latSd`, that a failed reset zeroes them too, and that they stand in the idle state
left behind, is the model's reading (log 6). -/
def Obligations.ResetRowFollowsR132 : Prop :=
  ∀ s : State, s.phase = .eReset → s.arrivals = [] →
    (∀ e, primOutcome .reset s = .err e → step s = .next { s with
      env := (primRun s.params .reset s.env).2, busSync := false, ld := 0#7, lfd := 0#4, exh := false
      latPpd := false, latSd := false, result := resultByte (errorCode e) false false false, phase := .idle }) ∧
    (∀ v, primOutcome .reset s = .ok v →
      (v.short = true → step s = .next { s with
        env := (primRun s.params .reset s.env).2, busSync := true, ld := 0#7, lfd := 0#4, exh := false
        latPpd := v.presence, latSd := true, result := resultByte .short false v.presence true, phase := .idle }) ∧
      (v.short = false → v.presence = false → step s = .next { s with
        env := (primRun s.params .reset s.env).2, busSync := true, ld := 0#7, lfd := 0#4, exh := false
        latPpd := false, latSd := false, result := 0x02#8, phase := .idle }) ∧
      (v.short = false → v.presence = true → step s = .next { s with
        env := (primRun s.params .reset s.env).2, busSync := true, latPpd := true, latSd := false
        phase := .eSearch }))

/-- R133, R94: the row E_SEARCH is the search command: SEARCH_CMD over the bus, then position 1; an error aborts
(R138). That the search command is an instruction of its own, whose meaning in every phase is this row, is the model's
choice (log 11). -/
def Obligations.SearchRowSendsSearchCommand : Prop :=
  ∀ s : State,
    (s.phase = .eSearch → s.arrivals = [] → step s = exec .busSearchRom s) ∧
    (∀ v, primOutcome (.writeByte s.params.searchCmd) s = .ok v → exec .busSearchRom s = .next { s with
      env := (primRun s.params (.writeByte s.params.searchCmd) s.env).2
      n := 1#7, lastZero := 0#7, phase := .eRdId }) ∧
    (∀ e, primOutcome (.writeByte s.params.searchCmd) s = .err e → exec .busSearchRom s = .next { s with
      env := (primRun s.params (.writeByte s.params.searchCmd) s.env).2, busSync := false
      ld := 0#7, lfd := 0#4, exh := false
      result := resultByte (errorCode e) false s.latPpd s.latSd, phase := .idle })

/-- R134, R135, R143: the row E_RD_CMP by the direction table, every row of it, for every position. `t` keeps every
other bit of ROM. -/
def Obligations.DirectionFollowsItsTable : Prop :=
  ∀ (s : State) (v : PrimValue), s.phase = .eRdCmp → s.arrivals = [] → 1 ≤ s.n.toNat → s.n.toNat ≤ 64 →
    primOutcome .readBit s = .ok v →
    (s.idBit = true → v.bit = true → ∃ t, step s = .next t ∧ t.phase = .idle ∧ t.ld = 0#7 ∧ t.lfd = 0#4 ∧
      t.exh = false ∧ t.result = resultByte .noResponse false s.latPpd s.latSd ∧ t.rom = s.rom ∧
      t.idOut = s.idOut ∧ t.busSync = s.busSync) ∧
    (∀ d mark : Bool,
      ((s.idBit = false ∧ v.bit = true ∧ d = false ∧ mark = false) ∨
       (s.idBit = true ∧ v.bit = false ∧ d = true ∧ mark = false) ∨
       (s.idBit = false ∧ v.bit = false ∧
        ((s.n.toNat < s.ld.toNat ∧ s.romWritten.getLsbD (s.n.toNat - 1) = true ∧
            d = s.rom.getLsbD (s.n.toNat - 1) ∧ mark = !d) ∨
         (s.n = s.ld ∧ d = true ∧ mark = false) ∨
         (s.ld.toNat < s.n.toNat ∧ d = false ∧ mark = true)))) →
      ∃ t, step s = .next t ∧ t.phase = .eWrDir ∧ t.dir = d ∧ t.cmpBit = v.bit ∧ t.n = s.n ∧ t.ld = s.ld ∧
        t.exh = s.exh ∧ t.lastZero = (if mark then s.n else s.lastZero) ∧
        t.lfd.toNat = (if mark = true ∧ s.n.toNat ≤ 8 then s.n.toNat else s.lfd.toNat) ∧
        (∀ k, k < 64 → t.rom.getLsbD k = if k = s.n.toNat - 1 then d else s.rom.getLsbD k) ∧
        (∀ k, k < 64 → t.romWritten.getLsbD k = (decide (k = s.n.toNat - 1) || s.romWritten.getLsbD k)) ∧
        t.result = s.result ∧ t.data = s.data ∧ t.idOut = s.idOut ∧ t.arg = s.arg ∧ t.busSync = s.busSync)

/-- R135, R141: the rows E_RD_ID and E_WR_DIR when their primitive completes. -/
def Obligations.RoundRowsAdvance : Prop :=
  ∀ (s : State) (v : PrimValue), s.arrivals = [] →
    (s.phase = .eRdId → primOutcome .readBit s = .ok v → step s = .next { s with
      env := (primRun s.params .readBit s.env).2, idBit := v.bit, phase := .eRdCmp }) ∧
    (s.phase = .eWrDir → primOutcome (.writeBit s.dir) s = .ok v →
      (s.n.toNat < 64 → step s = .next { s with
        env := (primRun s.params (.writeBit s.dir) s.env).2, n := s.n + 1#7, phase := .eRdId }) ∧
      (s.n.toNat = 64 → step s = .next { s with
        env := (primRun s.params (.writeBit s.dir) s.env).2, n := 65#7, phase := .eFinish }))

/-- R138, R174: an error in a round aborts: SR(), RESULT with the latched flags, BUS_SYNC 0; ROM, ID_OUT, DATA and ARG
kept. -/
def Obligations.ErrorInARoundAborts : Prop :=
  ∀ (s : State) (p : Prim) (e : BusError), s.arrivals = [] →
    (p = .readBit ∧ (s.phase = .eRdId ∨ s.phase = .eRdCmp)) ∨ (p = .writeBit s.dir ∧ s.phase = .eWrDir) →
    primOutcome p s = .err e →
    step s = .next { s with
      env := (primRun s.params p s.env).2, busSync := false, ld := 0#7, lfd := 0#4, exh := false
      result := resultByte (errorCode e) false s.latPpd s.latSd, phase := .idle }

/-- R136, R137: the row E_FINISH. LD takes last_zero, EXH is set when it is 0; family code 0 is ZERO_FAMILY with SR(),
anything else is found and published. A ROM bit without a value is an unwritten read (R177). -/
def Obligations.EndOfPassFollowsR137 : Prop :=
  ∀ s : State, s.phase = .eFinish → s.arrivals = [] →
    (s.romWritten = BitVec.allOnes 64 →
      (s.rom.extractLsb' 0 8 = 0x00#8 → step s = .next { s with
        ld := 0#7, lfd := 0#4, exh := false, result := 0x25#8, phase := .idle }) ∧
      (s.rom.extractLsb' 0 8 ≠ 0x00#8 → step s = .next { s with
        ld := s.lastZero, exh := if s.lastZero = 0#7 then true else s.exh, idOut := s.rom, idWritten := true
        result := 0x30#8, phase := .idle })) ∧
    (∀ k, k < 8 → s.romWritten.getLsbD k = false → step s = .fault .unwrittenRead)

/-! ### ENUM_NEXT and SEARCH_RESET -/

/-- R140: `SEARCH_RESET` clears LD, LFD and EXH, writes RESULT 0x00 and changes nothing else. -/
def Obligations.SearchResetClearsTheMarkers : Prop :=
  ∀ s : State, s.phase = .idle → exec .searchReset s = .next { s with
    ld := 0#7, lfd := 0#4, exh := false, result := 0x00#8 }

/-- R131: `ENUM_NEXT` on an exhausted state: SR(), RESULT 0x01, no bus traffic. -/
def Obligations.ExhaustedEnumNextStartsOver : Prop :=
  ∀ s : State, s.phase = .idle → s.exh = true → exec .enumNext s = .next { s with
    ld := 0#7, lfd := 0#4, exh := false, result := 0x01#8 }

/-- R139, R171, R172, R37: `ENUM_NEXT` always completes, and how: found with ROM published and LD, EXH as R136 says, or
one of the not-found results with SR() and ID_OUT kept. ARG, DATA, the parameters and the hosts are untouched. The
clause on `lastZero` speaks of a transient after its pass, which R27 leaves unspecified: that it keeps its last value is
the model's choice (log 5). -/
def Obligations.EnumNextCompletesWithOneOutcome : Prop :=
  ∀ s : State, Inv s → undisturbed s → ∃ t, exec .enumNext s = .next t ∧ t.phase = .idle ∧
    t.arg = s.arg ∧ t.data = s.data ∧ t.dataWritten = s.dataWritten ∧ t.params = s.params ∧ t.host = s.host ∧
    t.seen = s.seen ∧ t.arrivals = [] ∧
    ((t.result = 0x30#8 ∧ t.idOut = t.rom ∧ t.idWritten = true ∧ t.romWritten = BitVec.allOnes 64 ∧
        t.ld = t.lastZero ∧ (t.exh = true ↔ t.ld = 0#7) ∧ t.idOut.extractLsb' 0 8 ≠ 0x00#8 ∧ t.busSync = true) ∨
     (t.ld = 0#7 ∧ t.lfd = 0#4 ∧ t.exh = false ∧ t.idOut = s.idOut ∧ t.idWritten = s.idWritten ∧
        ((t.result = 0x01#8 ∧ s.exh = true ∧ t.env = s.env ∧ t.busSync = s.busSync) ∨
         (t.result ∈ [0x02#8, 0x43#8, 0x63#8, 0x24#8, 0x25#8] ∧ t.busSync = true) ∨
         (t.result ∈ [0x06#8, 0x07#8, 0x26#8, 0x27#8] ∧ t.busSync = false))))

/-- R139 and R141 agree: the rows of the sequencer run one after another are the one rule, as a loop, from every idle
state, in the resulting state and in the fault of an unwritten read alike. -/
def Obligations.SequencerRefinesTheOneRule : Prop :=
  ∀ s : State, undisturbed s → exec .enumNext s = enumRule s

/-- R130, R142: the bus work of a pass that finds a device: the reset, SEARCH_CMD and 64 rounds of two reads and the
write of that device's bit: 194 primitives in this order. -/
def Obligations.CompletePassIssuesItsPrimitives : Prop :=
  ∀ s t : State, undisturbed s → exec .enumNext s = .next t → t.result = 0x30#8 →
    primsOf t.env.log = primsOf s.env.log ++
      Prim.reset :: .writeByte s.params.searchCmd :: roundPrims t.rom 64 1

/-- R130, R142: no `ENUM_NEXT` issues more than 194 primitives, and an exhausted one issues none. -/
def Obligations.EnumNextBusWorkIsBounded : Prop :=
  ∀ s t : State, undisturbed s → exec .enumNext s = .next t →
    ∃ work, primsOf t.env.log = primsOf s.env.log ++ work ∧ work.length ≤ 194 ∧ (s.exh = true → work = [])

/-- R117, R199, R26 to R28: what host commands and earlier passes leave in ARG, DATA, RESULT, BUS_SYNC and the
transients does not reach the next `ENUM_NEXT`: its final state is the same, but for ARG and DATA, which it keeps,
and the transients n, last_zero, id_bit, cmp_bit and dir, of whose final values nothing is said. Both runs
meet the same environment, its free answers included (log 2). -/
def Obligations.EnumNextReadsOnlyTheSearchState : Prop :=
  ∀ (s t : State) (arg data result : Byte) (written sync b1 b2 b3 b4 b5 : Bool) (n lz : BitVec 7),
    undisturbed s → s.exh = false → exec .enumNext s = .next t →
    ∃ t', exec .enumNext { s with
        arg := arg, data := data, dataWritten := written, result := result, busSync := sync
        n := n, lastZero := lz, idBit := b1, cmpBit := b2, dir := b3, latPpd := b4, latSd := b5 } = .next t' ∧
      t' = { t with
        arg := arg, data := data, dataWritten := written, n := t'.n, lastZero := t'.lastZero
        idBit := t'.idBit, cmpBit := t'.cmpBit, dir := t'.dir }

/-- R154: `ENUM_NEXT` is a function of the controller's state and the primitive outcomes in the order they are issued:
two controllers in the same state given the same 194 outcomes end alike. -/
def Obligations.OutcomesDecideEnumNext : Prop :=
  ∀ s1 s2 t1 : State, undisturbed s1 → undisturbed s2 → sameController s1 s2 →
    s1.env.level = .primitives → s2.env.level = .primitives → s1.env.answers = s2.env.answers →
    194 ≤ s1.env.answers.length → exec .enumNext s1 = .next t1 →
    ∃ t2, exec .enumNext s2 = .next t2 ∧ sameController t1 t2 ∧ t1.env.answers = t2.env.answers

/-- R6: level P admits every run of level T and of the reference bus: for every command from every state there are
primitive outcomes that take it to the same state of the controller. -/
def Obligations.PrimitiveLevelAdmitsEveryRun : Prop :=
  ∀ (s t : State) (i : Instr), undisturbed s → portOf i = .cmd → exec i s = .next t →
    ∃ answers t', exec i { s with env := { s.env with level := .primitives, answers := answers } } = .next t' ∧
      sameController t' t

/-! ### The reference bus and the order of enumeration -/

/-- R67: what the reference bus answers and how its live set and position move; every primitive completes but one with
a scripted fault laid over it. -/
def Obligations.ReferenceBusFollowsR67 : Prop :=
  ∀ (P : Params) (e : Env), e.level = .reference → e.bus.overlay = [] →
    ((primRun P .reset e).1 =
        .ok { presence := decide (e.bus.devices ≠ []), short := false, bit := false, byte := 0x00#8 } ∧
      (primRun P .reset e).2.bus = { e.bus with live := e.bus.devices, mode := .afterReset }) ∧
    (e.bus.mode = .afterReset → (∃ v, (primRun P (.writeByte P.searchCmd) e).1 = .ok v) ∧
      (primRun P (.writeByte P.searchCmd) e).2.bus = { e.bus with mode := .search 1 0 }) ∧
    (∀ p, e.bus.mode = .search p 0 → (∃ v, (primRun P .readBit e).1 = .ok v ∧
        (v.bit = true ↔ ∀ d ∈ e.bus.live, d.getLsbD (p - 1) = true)) ∧
      (primRun P .readBit e).2.bus = { e.bus with mode := .search p 1 }) ∧
    (∀ p, e.bus.mode = .search p 1 → (∃ v, (primRun P .readBit e).1 = .ok v ∧
        (v.bit = true ↔ ∀ d ∈ e.bus.live, d.getLsbD (p - 1) = false)) ∧
      (primRun P .readBit e).2.bus = { e.bus with mode := .search p 2 }) ∧
    (∀ p r b, e.bus.mode = .search p r → (∃ v, (primRun P (.writeBit b) e).1 = .ok v) ∧
      (∀ d, d ∈ (primRun P (.writeBit b) e).2.bus.live ↔ d ∈ e.bus.live ∧ d.getLsbD (p - 1) = b) ∧
      (p < 64 → (primRun P (.writeBit b) e).2.bus.mode = .search (p + 1) 0)) ∧
    (∀ p, ∃ v, (primRun P p e).1 = .ok v) ∧
    (∀ p x rest, (primRun P p { e with bus.overlay := some x :: rest }).1 = .err x ∧
      (primRun P p { e with bus.overlay := some x :: rest }).2.bus.overlay = rest)

/-- R66, with the corner cases of R114 and R116: on the reference bus, when there is no device or in search mode none is
live any more, a bit reads 1 and a byte 0xFF, in whatever mode the bus is; so `OW_READ_BIT` leaves DATA 0x01 and
`OW_READ_BYTE` 0xFF. With no device this is R66, and so are, by R67, the first two bit reads of a position where none is
live. That devices which dropped out stay silent also at a third bit read of a position and at a byte read in search
mode, off the pattern of R67, is the model's choice (log 13): the spec leaves it open (91_not_in_source.md N15). -/
def Obligations.UnansweredSlotsReadAsOnes : Prop :=
  (∀ (P : Params) (e : Env), e.level = .reference → e.bus.overlay = [] → (∀ d ∈ e.bus.live, d ∈ e.bus.devices) →
    e.bus.devices = [] ∨ (e.bus.live = [] ∧ ∃ p r, e.bus.mode = .search p r) →
    (primRun P .readBit e).1 = .ok { presence := false, short := false, bit := true, byte := 0x00#8 } ∧
    (primRun P .readByte e).1 = .ok { presence := false, short := false, bit := false, byte := 0xFF#8 }) ∧
  (∀ s : State, undisturbed s → s.busSync = true → s.env.level = .reference → s.env.bus.overlay = [] →
    s.env.bus.devices = [] → s.env.bus.live = [] →
    (∃ t, exec .owReadBit s = .next t ∧ t.data = 0x01#8 ∧ t.dataWritten = true ∧ t.result = 0x00#8) ∧
    (∃ t, exec .owReadByte s = .next t ∧ t.data = 0xFF#8 ∧ t.dataWritten = true ∧ t.result = 0x00#8))

/-- R68: the three answers a round of the reference bus can read. -/
def Obligations.WiredAndAnswersByLiveSet : Prop :=
  ∀ (live : List Ident) (k : Nat),
    (live = [] → wiredAnd live k = true ∧ wiredAndNot live k = true) ∧
    (∀ b, live ≠ [] → (∀ d ∈ live, d.getLsbD k = b) → wiredAnd live k = b ∧ wiredAndNot live k = !b) ∧
    (∀ d ∈ live, ∀ d' ∈ live, d.getLsbD k = true → d'.getLsbD k = false →
      wiredAnd live k = false ∧ wiredAndNot live k = false)

/-- R150: the search order is a strict total order on identifiers, and it is the numeric order of the identifiers with
their 64 bits reversed. -/
def Obligations.SearchOrderIsReversedBitOrder : Prop :=
  (∀ a b : Ident, precedes a b ↔ a.reverse.toNat < b.reverse.toNat) ∧
  (∀ a : Ident, ¬ precedes a a) ∧
  (∀ a b c : Ident, precedes a b → precedes b c → precedes a c) ∧
  (∀ a b : Ident, a ≠ b → precedes a b ∨ precedes b a)

/-- R151, R152, one call: on the reference bus without faults and without a family code 0, from a state on track,
`ENUM_NEXT` finds the least device after the one in ROM (the least of all when LD is 0), and leaves the state on track
with EXH set exactly when none is left. -/
def Obligations.EnumNextFindsTheNextDevice : Prop :=
  ∀ (S : List Ident) (s : State), undisturbed s → onReference S s → onTrack S s → s.exh = false →
    s.ld.toNat ≤ 64 → (∀ d ∈ S, d.extractLsb' 0 8 ≠ 0x00#8) →
    ∃ t, exec .enumNext s = .next t ∧ t.result = 0x30#8 ∧ t.idOut = t.rom ∧ t.idWritten = true ∧ t.rom ∈ S ∧
      (s.ld = 0#7 → ∀ x ∈ S, x = t.rom ∨ precedes t.rom x) ∧
      (s.ld ≠ 0#7 → precedes s.rom t.rom ∧ ∀ x ∈ S, precedes s.rom x → x = t.rom ∨ precedes t.rom x) ∧
      t.romWritten = BitVec.allOnes 64 ∧ lastBranch S t.rom t.ld.toNat ∧
      (t.exh = true ↔ ∀ x ∈ S, ¬ precedes t.rom x) ∧ (t.exh = true ↔ t.ld = 0#7) ∧
      onReference S t ∧ undisturbed t

/-- §8 of the source in 95_test_vectors.md X4: a call that continues an enumeration reproduces the bits before LD and
takes 1 at LD, where the device before took 0. -/
def Obligations.RetraceReproducesThePrefix : Prop :=
  ∀ (S : List Ident) (s t : State), undisturbed s → onReference S s → onTrack S s → s.exh = false →
    s.ld ≠ 0#7 → s.ld.toNat ≤ 64 → exec .enumNext s = .next t → t.result = 0x30#8 →
    (∀ k, k < s.ld.toNat - 1 → t.idOut.getLsbD k = s.rom.getLsbD k) ∧
    t.idOut.getLsbD (s.ld.toNat - 1) = true ∧ s.rom.getLsbD (s.ld.toNat - 1) = false

/-- R151: from an empty search state the devices `s_1 ≺ … ≺ s_m` are reported in this order, one per `ENUM_NEXT`;
EXH is set after the last and LD is 0 then only; the next call reports EXHAUSTED, and the one after it `s_1` again. -/
def Obligations.EnumerationVisitsEachDeviceOnceInOrder : Prop :=
  ∀ (devices : List Ident) (s : State), devices.Pairwise precedes → undisturbed s →
    (∃ S, onReference S s ∧ ∀ d, d ∈ S ↔ d ∈ devices) →
    (∀ d ∈ devices, d.extractLsb' 0 8 ≠ 0x00#8) → s.ld = 0#7 → s.exh = false →
    (∀ (i : Nat) (d : Ident), devices[i]? = some d → ∃ t, enumTimes (i + 1) s = .next t ∧ t.result = 0x30#8 ∧
      t.idOut = d ∧ (t.exh = true ↔ i + 1 = devices.length) ∧ (t.ld = 0#7 ↔ i + 1 = devices.length)) ∧
    (∃ t, enumTimes (devices.length + 1) s = .next t ∧ t.result = 0x01#8 ∧ t.ld = 0#7 ∧ t.lfd = 0#4 ∧
      t.exh = false) ∧
    (∀ d, devices[0]? = some d → ∃ t, enumTimes (devices.length + 2) s = .next t ∧ t.result = 0x30#8 ∧
      t.idOut = d)

/-- R153, R197: while a device with family code 0 is on the reference bus, `ENUM_NEXT` from an empty search state ends
ZERO_FAMILY with an empty search state and ID_OUT kept, in a state that meets these hypotheses again: no device is ever
reported. -/
def Obligations.ZeroFamilyDeviceHidesEveryDevice : Prop :=
  ∀ (S : List Ident) (s : State) (z : Ident), undisturbed s → onReference S s → z ∈ S →
    z.extractLsb' 0 8 = 0x00#8 → s.ld = 0#7 → s.exh = false →
    ∃ t, exec .enumNext s = .next t ∧ t.result = 0x25#8 ∧ t.ld = 0#7 ∧ t.lfd = 0#4 ∧ t.exh = false ∧
      t.idOut = s.idOut ∧ t.idWritten = s.idWritten ∧ onReference S t ∧ undisturbed t

/-! ### Whole-machine rules -/

/-- R39, R25 at reset. The values the model holds where the spec gives none (logs 4 to 6) play no part in `Inv`. -/
def Obligations.ResetMeetsTheInvariant : Prop := Inv State.reset

/-- R39, R25: every step keeps the invariant, in every phase, whatever the environment answers and whatever arrives. -/
def Obligations.StepKeepsTheInvariant : Prop :=
  ∀ s t : State, Inv s → step s = .next t → Inv t

/-- R176, R177, R193 to R195: as long as the host keeps its duties no step stops: every access goes through, and no
rule reads a ROM bit without a value. -/
def Obligations.DutifulHostIsNeverStopped : Prop :=
  (∀ s : State, Inv s → dutiful s → ∃ t, step s = .next t ∧ t.phase = .idle) ∧
  (∀ s : State, Inv s → s.phase ≠ .idle → s.arrivals = [] → ∃ t, step s = .next t)

/-- R31, R141: every command that goes through leaves the controller in IDLE, at once or through its rows. -/
def Obligations.EveryCommandEndsInIdle : Prop :=
  ∀ (s t : State) (i : Instr), portOf i = .cmd → exec i s = .next t → t.phase = .idle

/-- R32, R35, R36, R101, R37: who writes what. From an idle controller, only an ARG write changes ARG; only a read
command that completed changes DATA; only `ENUM_NEXT` and `SEARCH_RESET` change the search state, and only `ENUM_NEXT`
ROM and ID_OUT; only a CMD write changes RESULT and BUS_SYNC; no step changes the parameters. -/
def Obligations.RegistersHaveOnlyTheirWriters : Prop :=
  ∀ s t : State, undisturbed s → step s = .next t →
    t.params = s.params ∧
    (t.arg ≠ s.arg → ∃ v rest, s.host = .write 0x01#8 v :: rest) ∧
    (t.data ≠ s.data ∨ t.dataWritten ≠ s.dataWritten →
      (∃ c rest, s.host = .write 0x00#8 c :: rest ∧ (c = 0x03#8 ∨ c = 0x05#8)) ∧ t.result = 0x00#8) ∧
    (t.ld ≠ s.ld ∨ t.lfd ≠ s.lfd ∨ t.exh ≠ s.exh →
      ∃ c rest, s.host = .write 0x00#8 c :: rest ∧ (c = 0x10#8 ∨ c = 0x11#8)) ∧
    (t.rom ≠ s.rom ∨ t.romWritten ≠ s.romWritten ∨ t.idOut ≠ s.idOut ∨ t.idWritten ≠ s.idWritten →
      ∃ rest, s.host = .write 0x00#8 0x10#8 :: rest) ∧
    (t.result ≠ s.result ∨ t.busSync ≠ s.busSync → ∃ c rest, s.host = .write 0x00#8 c :: rest)

/-- R33, R86: RESULT.FOUND is 1 exactly when the command was `ENUM_NEXT` and its outcome is OK, and bit 7 is 0. -/
def Obligations.FoundMeansEnumNextOk : Prop :=
  ∀ (s t : State) (c : Byte) (rest : List HostAccess), undisturbed s → s.host = .write 0x00#8 c :: rest →
    step s = .next t →
    (resultFound t.result = true ↔ c = 0x10#8 ∧ resultCode t.result = 0x0#4) ∧ t.result.getLsbD 7 = false

/-- R40, R182: a step of one instance leaves every other instance as it was. That instances are a list of states of
which one steps is the model's choice (log 22). -/
def Obligations.InstancesShareNothing : Prop :=
  ∀ (k : Nat) (ms ms' : List State), stepInstance k ms = .next ms' →
    ms'.length = ms.length ∧ (∀ j, j ≠ k → ms'[j]? = ms[j]?) ∧
    (∀ s, ms[k]? = some s → ∃ t, step s = .next t ∧ ms'[k]? = some t)
end

