-- ==== Sys2Proof/Laws/State.lean ====
section
/-! SUPPORT. For every named update of the state, what it does to each field: true by rfl, for simp. -/

namespace Sys2Proof.Machine

/-! ### `clearSearch` -/

@[simp] theorem clearSearch_ld (s : State) : (clearSearch s).ld = 0#7 := rfl
@[simp] theorem clearSearch_lfd (s : State) : (clearSearch s).lfd = 0#4 := rfl
@[simp] theorem clearSearch_exh (s : State) : (clearSearch s).exh = false := rfl
@[simp] theorem clearSearch_rom (s : State) : (clearSearch s).rom = s.rom := rfl
@[simp] theorem clearSearch_romWritten (s : State) : (clearSearch s).romWritten = s.romWritten := rfl
@[simp] theorem clearSearch_n (s : State) : (clearSearch s).n = s.n := rfl
@[simp] theorem clearSearch_lastZero (s : State) : (clearSearch s).lastZero = s.lastZero := rfl
@[simp] theorem clearSearch_idBit (s : State) : (clearSearch s).idBit = s.idBit := rfl
@[simp] theorem clearSearch_cmpBit (s : State) : (clearSearch s).cmpBit = s.cmpBit := rfl
@[simp] theorem clearSearch_dir (s : State) : (clearSearch s).dir = s.dir := rfl
@[simp] theorem clearSearch_latPpd (s : State) : (clearSearch s).latPpd = s.latPpd := rfl
@[simp] theorem clearSearch_latSd (s : State) : (clearSearch s).latSd = s.latSd := rfl
@[simp] theorem clearSearch_phase (s : State) : (clearSearch s).phase = s.phase := rfl
@[simp] theorem clearSearch_busSync (s : State) : (clearSearch s).busSync = s.busSync := rfl
@[simp] theorem clearSearch_arg (s : State) : (clearSearch s).arg = s.arg := rfl
@[simp] theorem clearSearch_result (s : State) : (clearSearch s).result = s.result := rfl
@[simp] theorem clearSearch_data (s : State) : (clearSearch s).data = s.data := rfl
@[simp] theorem clearSearch_dataWritten (s : State) : (clearSearch s).dataWritten = s.dataWritten := rfl
@[simp] theorem clearSearch_idOut (s : State) : (clearSearch s).idOut = s.idOut := rfl
@[simp] theorem clearSearch_idWritten (s : State) : (clearSearch s).idWritten = s.idWritten := rfl
@[simp] theorem clearSearch_params (s : State) : (clearSearch s).params = s.params := rfl
@[simp] theorem clearSearch_env (s : State) : (clearSearch s).env = s.env := rfl
@[simp] theorem clearSearch_host (s : State) : (clearSearch s).host = s.host := rfl
@[simp] theorem clearSearch_arrivals (s : State) : (clearSearch s).arrivals = s.arrivals := rfl
@[simp] theorem clearSearch_seen (s : State) : (clearSearch s).seen = s.seen := rfl

/-! ### `complete` -/

@[simp] theorem complete_ld (c : Code) (found ppd sd : Bool) (s : State) :
    (complete c found ppd sd s).ld = s.ld := rfl
@[simp] theorem complete_lfd (c : Code) (found ppd sd : Bool) (s : State) :
    (complete c found ppd sd s).lfd = s.lfd := rfl
@[simp] theorem complete_exh (c : Code) (found ppd sd : Bool) (s : State) :
    (complete c found ppd sd s).exh = s.exh := rfl
@[simp] theorem complete_rom (c : Code) (found ppd sd : Bool) (s : State) :
    (complete c found ppd sd s).rom = s.rom := rfl
@[simp] theorem complete_romWritten (c : Code) (found ppd sd : Bool) (s : State) :
    (complete c found ppd sd s).romWritten = s.romWritten := rfl
@[simp] theorem complete_n (c : Code) (found ppd sd : Bool) (s : State) : (complete c found ppd sd s).n = s.n := rfl
@[simp] theorem complete_lastZero (c : Code) (found ppd sd : Bool) (s : State) :
    (complete c found ppd sd s).lastZero = s.lastZero := rfl
@[simp] theorem complete_idBit (c : Code) (found ppd sd : Bool) (s : State) :
    (complete c found ppd sd s).idBit = s.idBit := rfl
@[simp] theorem complete_cmpBit (c : Code) (found ppd sd : Bool) (s : State) :
    (complete c found ppd sd s).cmpBit = s.cmpBit := rfl
@[simp] theorem complete_dir (c : Code) (found ppd sd : Bool) (s : State) :
    (complete c found ppd sd s).dir = s.dir := rfl
@[simp] theorem complete_latPpd (c : Code) (found ppd sd : Bool) (s : State) :
    (complete c found ppd sd s).latPpd = s.latPpd := rfl
@[simp] theorem complete_latSd (c : Code) (found ppd sd : Bool) (s : State) :
    (complete c found ppd sd s).latSd = s.latSd := rfl
@[simp] theorem complete_phase (c : Code) (found ppd sd : Bool) (s : State) :
    (complete c found ppd sd s).phase = .idle := rfl
@[simp] theorem complete_busSync (c : Code) (found ppd sd : Bool) (s : State) :
    (complete c found ppd sd s).busSync = s.busSync := rfl
@[simp] theorem complete_arg (c : Code) (found ppd sd : Bool) (s : State) :
    (complete c found ppd sd s).arg = s.arg := rfl
@[simp] theorem complete_result (c : Code) (found ppd sd : Bool) (s : State) :
    (complete c found ppd sd s).result = resultByte c found ppd sd := rfl
@[simp] theorem complete_data (c : Code) (found ppd sd : Bool) (s : State) :
    (complete c found ppd sd s).data = s.data := rfl
@[simp] theorem complete_dataWritten (c : Code) (found ppd sd : Bool) (s : State) :
    (complete c found ppd sd s).dataWritten = s.dataWritten := rfl
@[simp] theorem complete_idOut (c : Code) (found ppd sd : Bool) (s : State) :
    (complete c found ppd sd s).idOut = s.idOut := rfl
@[simp] theorem complete_idWritten (c : Code) (found ppd sd : Bool) (s : State) :
    (complete c found ppd sd s).idWritten = s.idWritten := rfl
@[simp] theorem complete_params (c : Code) (found ppd sd : Bool) (s : State) :
    (complete c found ppd sd s).params = s.params := rfl
@[simp] theorem complete_env (c : Code) (found ppd sd : Bool) (s : State) :
    (complete c found ppd sd s).env = s.env := rfl
@[simp] theorem complete_host (c : Code) (found ppd sd : Bool) (s : State) :
    (complete c found ppd sd s).host = s.host := rfl
@[simp] theorem complete_arrivals (c : Code) (found ppd sd : Bool) (s : State) :
    (complete c found ppd sd s).arrivals = s.arrivals := rfl
@[simp] theorem complete_seen (c : Code) (found ppd sd : Bool) (s : State) :
    (complete c found ppd sd s).seen = s.seen := rfl

/-! ### `enterPhase` -/

@[simp] theorem enterPhase_ld (p : Phase) (s : State) : (enterPhase p s).ld = s.ld := rfl
@[simp] theorem enterPhase_lfd (p : Phase) (s : State) : (enterPhase p s).lfd = s.lfd := rfl
@[simp] theorem enterPhase_exh (p : Phase) (s : State) : (enterPhase p s).exh = s.exh := rfl
@[simp] theorem enterPhase_rom (p : Phase) (s : State) : (enterPhase p s).rom = s.rom := rfl
@[simp] theorem enterPhase_romWritten (p : Phase) (s : State) : (enterPhase p s).romWritten = s.romWritten := rfl
@[simp] theorem enterPhase_n (p : Phase) (s : State) : (enterPhase p s).n = s.n := rfl
@[simp] theorem enterPhase_lastZero (p : Phase) (s : State) : (enterPhase p s).lastZero = s.lastZero := rfl
@[simp] theorem enterPhase_idBit (p : Phase) (s : State) : (enterPhase p s).idBit = s.idBit := rfl
@[simp] theorem enterPhase_cmpBit (p : Phase) (s : State) : (enterPhase p s).cmpBit = s.cmpBit := rfl
@[simp] theorem enterPhase_dir (p : Phase) (s : State) : (enterPhase p s).dir = s.dir := rfl
@[simp] theorem enterPhase_latPpd (p : Phase) (s : State) : (enterPhase p s).latPpd = s.latPpd := rfl
@[simp] theorem enterPhase_latSd (p : Phase) (s : State) : (enterPhase p s).latSd = s.latSd := rfl
@[simp] theorem enterPhase_phase (p : Phase) (s : State) : (enterPhase p s).phase = p := rfl
@[simp] theorem enterPhase_busSync (p : Phase) (s : State) : (enterPhase p s).busSync = s.busSync := rfl
@[simp] theorem enterPhase_arg (p : Phase) (s : State) : (enterPhase p s).arg = s.arg := rfl
@[simp] theorem enterPhase_result (p : Phase) (s : State) : (enterPhase p s).result = s.result := rfl
@[simp] theorem enterPhase_data (p : Phase) (s : State) : (enterPhase p s).data = s.data := rfl
@[simp] theorem enterPhase_dataWritten (p : Phase) (s : State) : (enterPhase p s).dataWritten = s.dataWritten := rfl
@[simp] theorem enterPhase_idOut (p : Phase) (s : State) : (enterPhase p s).idOut = s.idOut := rfl
@[simp] theorem enterPhase_idWritten (p : Phase) (s : State) : (enterPhase p s).idWritten = s.idWritten := rfl
@[simp] theorem enterPhase_params (p : Phase) (s : State) : (enterPhase p s).params = s.params := rfl
@[simp] theorem enterPhase_env (p : Phase) (s : State) : (enterPhase p s).env = s.env := rfl
@[simp] theorem enterPhase_host (p : Phase) (s : State) : (enterPhase p s).host = s.host := rfl
@[simp] theorem enterPhase_arrivals (p : Phase) (s : State) : (enterPhase p s).arrivals = s.arrivals := rfl
@[simp] theorem enterPhase_seen (p : Phase) (s : State) : (enterPhase p s).seen = s.seen := rfl

/-! ### `abort` -/

@[simp] theorem abort_ld (c : Code) (s : State) : (abort c s).ld = 0#7 := rfl
@[simp] theorem abort_lfd (c : Code) (s : State) : (abort c s).lfd = 0#4 := rfl
@[simp] theorem abort_exh (c : Code) (s : State) : (abort c s).exh = false := rfl
@[simp] theorem abort_rom (c : Code) (s : State) : (abort c s).rom = s.rom := rfl
@[simp] theorem abort_romWritten (c : Code) (s : State) : (abort c s).romWritten = s.romWritten := rfl
@[simp] theorem abort_n (c : Code) (s : State) : (abort c s).n = s.n := rfl
@[simp] theorem abort_lastZero (c : Code) (s : State) : (abort c s).lastZero = s.lastZero := rfl
@[simp] theorem abort_idBit (c : Code) (s : State) : (abort c s).idBit = s.idBit := rfl
@[simp] theorem abort_cmpBit (c : Code) (s : State) : (abort c s).cmpBit = s.cmpBit := rfl
@[simp] theorem abort_dir (c : Code) (s : State) : (abort c s).dir = s.dir := rfl
@[simp] theorem abort_latPpd (c : Code) (s : State) : (abort c s).latPpd = s.latPpd := rfl
@[simp] theorem abort_latSd (c : Code) (s : State) : (abort c s).latSd = s.latSd := rfl
@[simp] theorem abort_phase (c : Code) (s : State) : (abort c s).phase = .idle := rfl
@[simp] theorem abort_busSync (c : Code) (s : State) : (abort c s).busSync = s.busSync := rfl
@[simp] theorem abort_arg (c : Code) (s : State) : (abort c s).arg = s.arg := rfl
@[simp] theorem abort_result (c : Code) (s : State) : (abort c s).result = resultByte c false s.latPpd s.latSd := rfl
@[simp] theorem abort_data (c : Code) (s : State) : (abort c s).data = s.data := rfl
@[simp] theorem abort_dataWritten (c : Code) (s : State) : (abort c s).dataWritten = s.dataWritten := rfl
@[simp] theorem abort_idOut (c : Code) (s : State) : (abort c s).idOut = s.idOut := rfl
@[simp] theorem abort_idWritten (c : Code) (s : State) : (abort c s).idWritten = s.idWritten := rfl
@[simp] theorem abort_params (c : Code) (s : State) : (abort c s).params = s.params := rfl
@[simp] theorem abort_env (c : Code) (s : State) : (abort c s).env = s.env := rfl
@[simp] theorem abort_host (c : Code) (s : State) : (abort c s).host = s.host := rfl
@[simp] theorem abort_arrivals (c : Code) (s : State) : (abort c s).arrivals = s.arrivals := rfl
@[simp] theorem abort_seen (c : Code) (s : State) : (abort c s).seen = s.seen := rfl

/-! ### `afterPrim` -/

@[simp] theorem afterPrim_ld (p : Prim) (s : State) : (afterPrim p s).ld = s.ld := rfl
@[simp] theorem afterPrim_lfd (p : Prim) (s : State) : (afterPrim p s).lfd = s.lfd := rfl
@[simp] theorem afterPrim_exh (p : Prim) (s : State) : (afterPrim p s).exh = s.exh := rfl
@[simp] theorem afterPrim_rom (p : Prim) (s : State) : (afterPrim p s).rom = s.rom := rfl
@[simp] theorem afterPrim_romWritten (p : Prim) (s : State) : (afterPrim p s).romWritten = s.romWritten := rfl
@[simp] theorem afterPrim_n (p : Prim) (s : State) : (afterPrim p s).n = s.n := rfl
@[simp] theorem afterPrim_lastZero (p : Prim) (s : State) : (afterPrim p s).lastZero = s.lastZero := rfl
@[simp] theorem afterPrim_idBit (p : Prim) (s : State) : (afterPrim p s).idBit = s.idBit := rfl
@[simp] theorem afterPrim_cmpBit (p : Prim) (s : State) : (afterPrim p s).cmpBit = s.cmpBit := rfl
@[simp] theorem afterPrim_dir (p : Prim) (s : State) : (afterPrim p s).dir = s.dir := rfl
@[simp] theorem afterPrim_latPpd (p : Prim) (s : State) : (afterPrim p s).latPpd = s.latPpd := rfl
@[simp] theorem afterPrim_latSd (p : Prim) (s : State) : (afterPrim p s).latSd = s.latSd := rfl
@[simp] theorem afterPrim_phase (p : Prim) (s : State) : (afterPrim p s).phase = s.phase := rfl
@[simp] theorem afterPrim_busSync (p : Prim) (s : State) :
    (afterPrim p s).busSync = syncAfter p (isErr (primOutcome p s)) s.busSync := rfl
@[simp] theorem afterPrim_arg (p : Prim) (s : State) : (afterPrim p s).arg = s.arg := rfl
@[simp] theorem afterPrim_result (p : Prim) (s : State) : (afterPrim p s).result = s.result := rfl
@[simp] theorem afterPrim_data (p : Prim) (s : State) : (afterPrim p s).data = s.data := rfl
@[simp] theorem afterPrim_dataWritten (p : Prim) (s : State) : (afterPrim p s).dataWritten = s.dataWritten := rfl
@[simp] theorem afterPrim_idOut (p : Prim) (s : State) : (afterPrim p s).idOut = s.idOut := rfl
@[simp] theorem afterPrim_idWritten (p : Prim) (s : State) : (afterPrim p s).idWritten = s.idWritten := rfl
@[simp] theorem afterPrim_params (p : Prim) (s : State) : (afterPrim p s).params = s.params := rfl
@[simp] theorem afterPrim_env (p : Prim) (s : State) : (afterPrim p s).env = (primRun s.params p s.env).2 := rfl
@[simp] theorem afterPrim_host (p : Prim) (s : State) : (afterPrim p s).host = s.host := rfl
@[simp] theorem afterPrim_arrivals (p : Prim) (s : State) : (afterPrim p s).arrivals = s.arrivals := rfl
@[simp] theorem afterPrim_seen (p : Prim) (s : State) : (afterPrim p s).seen = s.seen := rfl

/-! ### `latchReset` -/

@[simp] theorem latchReset_ld (ppd sd : Bool) (s : State) : (latchReset ppd sd s).ld = s.ld := rfl
@[simp] theorem latchReset_lfd (ppd sd : Bool) (s : State) : (latchReset ppd sd s).lfd = s.lfd := rfl
@[simp] theorem latchReset_exh (ppd sd : Bool) (s : State) : (latchReset ppd sd s).exh = s.exh := rfl
@[simp] theorem latchReset_rom (ppd sd : Bool) (s : State) : (latchReset ppd sd s).rom = s.rom := rfl
@[simp] theorem latchReset_romWritten (ppd sd : Bool) (s : State) :
    (latchReset ppd sd s).romWritten = s.romWritten := rfl
@[simp] theorem latchReset_n (ppd sd : Bool) (s : State) : (latchReset ppd sd s).n = s.n := rfl
@[simp] theorem latchReset_lastZero (ppd sd : Bool) (s : State) : (latchReset ppd sd s).lastZero = s.lastZero := rfl
@[simp] theorem latchReset_idBit (ppd sd : Bool) (s : State) : (latchReset ppd sd s).idBit = s.idBit := rfl
@[simp] theorem latchReset_cmpBit (ppd sd : Bool) (s : State) : (latchReset ppd sd s).cmpBit = s.cmpBit := rfl
@[simp] theorem latchReset_dir (ppd sd : Bool) (s : State) : (latchReset ppd sd s).dir = s.dir := rfl
@[simp] theorem latchReset_latPpd (ppd sd : Bool) (s : State) : (latchReset ppd sd s).latPpd = ppd := rfl
@[simp] theorem latchReset_latSd (ppd sd : Bool) (s : State) : (latchReset ppd sd s).latSd = sd := rfl
@[simp] theorem latchReset_phase (ppd sd : Bool) (s : State) : (latchReset ppd sd s).phase = s.phase := rfl
@[simp] theorem latchReset_busSync (ppd sd : Bool) (s : State) : (latchReset ppd sd s).busSync = s.busSync := rfl
@[simp] theorem latchReset_arg (ppd sd : Bool) (s : State) : (latchReset ppd sd s).arg = s.arg := rfl
@[simp] theorem latchReset_result (ppd sd : Bool) (s : State) : (latchReset ppd sd s).result = s.result := rfl
@[simp] theorem latchReset_data (ppd sd : Bool) (s : State) : (latchReset ppd sd s).data = s.data := rfl
@[simp] theorem latchReset_dataWritten (ppd sd : Bool) (s : State) :
    (latchReset ppd sd s).dataWritten = s.dataWritten := rfl
@[simp] theorem latchReset_idOut (ppd sd : Bool) (s : State) : (latchReset ppd sd s).idOut = s.idOut := rfl
@[simp] theorem latchReset_idWritten (ppd sd : Bool) (s : State) :
    (latchReset ppd sd s).idWritten = s.idWritten := rfl
@[simp] theorem latchReset_params (ppd sd : Bool) (s : State) : (latchReset ppd sd s).params = s.params := rfl
@[simp] theorem latchReset_env (ppd sd : Bool) (s : State) : (latchReset ppd sd s).env = s.env := rfl
@[simp] theorem latchReset_host (ppd sd : Bool) (s : State) : (latchReset ppd sd s).host = s.host := rfl
@[simp] theorem latchReset_arrivals (ppd sd : Bool) (s : State) : (latchReset ppd sd s).arrivals = s.arrivals := rfl
@[simp] theorem latchReset_seen (ppd sd : Bool) (s : State) : (latchReset ppd sd s).seen = s.seen := rfl

/-! ### `startRounds` -/

@[simp] theorem startRounds_ld (s : State) : (startRounds s).ld = s.ld := rfl
@[simp] theorem startRounds_lfd (s : State) : (startRounds s).lfd = s.lfd := rfl
@[simp] theorem startRounds_exh (s : State) : (startRounds s).exh = s.exh := rfl
@[simp] theorem startRounds_rom (s : State) : (startRounds s).rom = s.rom := rfl
@[simp] theorem startRounds_romWritten (s : State) : (startRounds s).romWritten = s.romWritten := rfl
@[simp] theorem startRounds_n (s : State) : (startRounds s).n = 1#7 := rfl
@[simp] theorem startRounds_lastZero (s : State) : (startRounds s).lastZero = 0#7 := rfl
@[simp] theorem startRounds_idBit (s : State) : (startRounds s).idBit = s.idBit := rfl
@[simp] theorem startRounds_cmpBit (s : State) : (startRounds s).cmpBit = s.cmpBit := rfl
@[simp] theorem startRounds_dir (s : State) : (startRounds s).dir = s.dir := rfl
@[simp] theorem startRounds_latPpd (s : State) : (startRounds s).latPpd = s.latPpd := rfl
@[simp] theorem startRounds_latSd (s : State) : (startRounds s).latSd = s.latSd := rfl
@[simp] theorem startRounds_phase (s : State) : (startRounds s).phase = s.phase := rfl
@[simp] theorem startRounds_busSync (s : State) : (startRounds s).busSync = s.busSync := rfl
@[simp] theorem startRounds_arg (s : State) : (startRounds s).arg = s.arg := rfl
@[simp] theorem startRounds_result (s : State) : (startRounds s).result = s.result := rfl
@[simp] theorem startRounds_data (s : State) : (startRounds s).data = s.data := rfl
@[simp] theorem startRounds_dataWritten (s : State) : (startRounds s).dataWritten = s.dataWritten := rfl
@[simp] theorem startRounds_idOut (s : State) : (startRounds s).idOut = s.idOut := rfl
@[simp] theorem startRounds_idWritten (s : State) : (startRounds s).idWritten = s.idWritten := rfl
@[simp] theorem startRounds_params (s : State) : (startRounds s).params = s.params := rfl
@[simp] theorem startRounds_env (s : State) : (startRounds s).env = s.env := rfl
@[simp] theorem startRounds_host (s : State) : (startRounds s).host = s.host := rfl
@[simp] theorem startRounds_arrivals (s : State) : (startRounds s).arrivals = s.arrivals := rfl
@[simp] theorem startRounds_seen (s : State) : (startRounds s).seen = s.seen := rfl

/-! ### `latchId` -/

@[simp] theorem latchId_ld (b : Bool) (s : State) : (latchId b s).ld = s.ld := rfl
@[simp] theorem latchId_lfd (b : Bool) (s : State) : (latchId b s).lfd = s.lfd := rfl
@[simp] theorem latchId_exh (b : Bool) (s : State) : (latchId b s).exh = s.exh := rfl
@[simp] theorem latchId_rom (b : Bool) (s : State) : (latchId b s).rom = s.rom := rfl
@[simp] theorem latchId_romWritten (b : Bool) (s : State) : (latchId b s).romWritten = s.romWritten := rfl
@[simp] theorem latchId_n (b : Bool) (s : State) : (latchId b s).n = s.n := rfl
@[simp] theorem latchId_lastZero (b : Bool) (s : State) : (latchId b s).lastZero = s.lastZero := rfl
@[simp] theorem latchId_idBit (b : Bool) (s : State) : (latchId b s).idBit = b := rfl
@[simp] theorem latchId_cmpBit (b : Bool) (s : State) : (latchId b s).cmpBit = s.cmpBit := rfl
@[simp] theorem latchId_dir (b : Bool) (s : State) : (latchId b s).dir = s.dir := rfl
@[simp] theorem latchId_latPpd (b : Bool) (s : State) : (latchId b s).latPpd = s.latPpd := rfl
@[simp] theorem latchId_latSd (b : Bool) (s : State) : (latchId b s).latSd = s.latSd := rfl
@[simp] theorem latchId_phase (b : Bool) (s : State) : (latchId b s).phase = s.phase := rfl
@[simp] theorem latchId_busSync (b : Bool) (s : State) : (latchId b s).busSync = s.busSync := rfl
@[simp] theorem latchId_arg (b : Bool) (s : State) : (latchId b s).arg = s.arg := rfl
@[simp] theorem latchId_result (b : Bool) (s : State) : (latchId b s).result = s.result := rfl
@[simp] theorem latchId_data (b : Bool) (s : State) : (latchId b s).data = s.data := rfl
@[simp] theorem latchId_dataWritten (b : Bool) (s : State) : (latchId b s).dataWritten = s.dataWritten := rfl
@[simp] theorem latchId_idOut (b : Bool) (s : State) : (latchId b s).idOut = s.idOut := rfl
@[simp] theorem latchId_idWritten (b : Bool) (s : State) : (latchId b s).idWritten = s.idWritten := rfl
@[simp] theorem latchId_params (b : Bool) (s : State) : (latchId b s).params = s.params := rfl
@[simp] theorem latchId_env (b : Bool) (s : State) : (latchId b s).env = s.env := rfl
@[simp] theorem latchId_host (b : Bool) (s : State) : (latchId b s).host = s.host := rfl
@[simp] theorem latchId_arrivals (b : Bool) (s : State) : (latchId b s).arrivals = s.arrivals := rfl
@[simp] theorem latchId_seen (b : Bool) (s : State) : (latchId b s).seen = s.seen := rfl

/-! ### `latchCmp` -/

@[simp] theorem latchCmp_ld (b : Bool) (s : State) : (latchCmp b s).ld = s.ld := rfl
@[simp] theorem latchCmp_lfd (b : Bool) (s : State) : (latchCmp b s).lfd = s.lfd := rfl
@[simp] theorem latchCmp_exh (b : Bool) (s : State) : (latchCmp b s).exh = s.exh := rfl
@[simp] theorem latchCmp_rom (b : Bool) (s : State) : (latchCmp b s).rom = s.rom := rfl
@[simp] theorem latchCmp_romWritten (b : Bool) (s : State) : (latchCmp b s).romWritten = s.romWritten := rfl
@[simp] theorem latchCmp_n (b : Bool) (s : State) : (latchCmp b s).n = s.n := rfl
@[simp] theorem latchCmp_lastZero (b : Bool) (s : State) : (latchCmp b s).lastZero = s.lastZero := rfl
@[simp] theorem latchCmp_idBit (b : Bool) (s : State) : (latchCmp b s).idBit = s.idBit := rfl
@[simp] theorem latchCmp_cmpBit (b : Bool) (s : State) : (latchCmp b s).cmpBit = b := rfl
@[simp] theorem latchCmp_dir (b : Bool) (s : State) : (latchCmp b s).dir = s.dir := rfl
@[simp] theorem latchCmp_latPpd (b : Bool) (s : State) : (latchCmp b s).latPpd = s.latPpd := rfl
@[simp] theorem latchCmp_latSd (b : Bool) (s : State) : (latchCmp b s).latSd = s.latSd := rfl
@[simp] theorem latchCmp_phase (b : Bool) (s : State) : (latchCmp b s).phase = s.phase := rfl
@[simp] theorem latchCmp_busSync (b : Bool) (s : State) : (latchCmp b s).busSync = s.busSync := rfl
@[simp] theorem latchCmp_arg (b : Bool) (s : State) : (latchCmp b s).arg = s.arg := rfl
@[simp] theorem latchCmp_result (b : Bool) (s : State) : (latchCmp b s).result = s.result := rfl
@[simp] theorem latchCmp_data (b : Bool) (s : State) : (latchCmp b s).data = s.data := rfl
@[simp] theorem latchCmp_dataWritten (b : Bool) (s : State) : (latchCmp b s).dataWritten = s.dataWritten := rfl
@[simp] theorem latchCmp_idOut (b : Bool) (s : State) : (latchCmp b s).idOut = s.idOut := rfl
@[simp] theorem latchCmp_idWritten (b : Bool) (s : State) : (latchCmp b s).idWritten = s.idWritten := rfl
@[simp] theorem latchCmp_params (b : Bool) (s : State) : (latchCmp b s).params = s.params := rfl
@[simp] theorem latchCmp_env (b : Bool) (s : State) : (latchCmp b s).env = s.env := rfl
@[simp] theorem latchCmp_host (b : Bool) (s : State) : (latchCmp b s).host = s.host := rfl
@[simp] theorem latchCmp_arrivals (b : Bool) (s : State) : (latchCmp b s).arrivals = s.arrivals := rfl
@[simp] theorem latchCmp_seen (b : Bool) (s : State) : (latchCmp b s).seen = s.seen := rfl

/-! ### `nextPosition` -/

@[simp] theorem nextPosition_ld (s : State) : (nextPosition s).ld = s.ld := rfl
@[simp] theorem nextPosition_lfd (s : State) : (nextPosition s).lfd = s.lfd := rfl
@[simp] theorem nextPosition_exh (s : State) : (nextPosition s).exh = s.exh := rfl
@[simp] theorem nextPosition_rom (s : State) : (nextPosition s).rom = s.rom := rfl
@[simp] theorem nextPosition_romWritten (s : State) : (nextPosition s).romWritten = s.romWritten := rfl
@[simp] theorem nextPosition_n (s : State) : (nextPosition s).n = s.n + 1#7 := rfl
@[simp] theorem nextPosition_lastZero (s : State) : (nextPosition s).lastZero = s.lastZero := rfl
@[simp] theorem nextPosition_idBit (s : State) : (nextPosition s).idBit = s.idBit := rfl
@[simp] theorem nextPosition_cmpBit (s : State) : (nextPosition s).cmpBit = s.cmpBit := rfl
@[simp] theorem nextPosition_dir (s : State) : (nextPosition s).dir = s.dir := rfl
@[simp] theorem nextPosition_latPpd (s : State) : (nextPosition s).latPpd = s.latPpd := rfl
@[simp] theorem nextPosition_latSd (s : State) : (nextPosition s).latSd = s.latSd := rfl
@[simp] theorem nextPosition_phase (s : State) : (nextPosition s).phase = s.phase := rfl
@[simp] theorem nextPosition_busSync (s : State) : (nextPosition s).busSync = s.busSync := rfl
@[simp] theorem nextPosition_arg (s : State) : (nextPosition s).arg = s.arg := rfl
@[simp] theorem nextPosition_result (s : State) : (nextPosition s).result = s.result := rfl
@[simp] theorem nextPosition_data (s : State) : (nextPosition s).data = s.data := rfl
@[simp] theorem nextPosition_dataWritten (s : State) : (nextPosition s).dataWritten = s.dataWritten := rfl
@[simp] theorem nextPosition_idOut (s : State) : (nextPosition s).idOut = s.idOut := rfl
@[simp] theorem nextPosition_idWritten (s : State) : (nextPosition s).idWritten = s.idWritten := rfl
@[simp] theorem nextPosition_params (s : State) : (nextPosition s).params = s.params := rfl
@[simp] theorem nextPosition_env (s : State) : (nextPosition s).env = s.env := rfl
@[simp] theorem nextPosition_host (s : State) : (nextPosition s).host = s.host := rfl
@[simp] theorem nextPosition_arrivals (s : State) : (nextPosition s).arrivals = s.arrivals := rfl
@[simp] theorem nextPosition_seen (s : State) : (nextPosition s).seen = s.seen := rfl

/-! ### `writeData` -/

@[simp] theorem writeData_ld (v : Byte) (s : State) : (writeData v s).ld = s.ld := rfl
@[simp] theorem writeData_lfd (v : Byte) (s : State) : (writeData v s).lfd = s.lfd := rfl
@[simp] theorem writeData_exh (v : Byte) (s : State) : (writeData v s).exh = s.exh := rfl
@[simp] theorem writeData_rom (v : Byte) (s : State) : (writeData v s).rom = s.rom := rfl
@[simp] theorem writeData_romWritten (v : Byte) (s : State) : (writeData v s).romWritten = s.romWritten := rfl
@[simp] theorem writeData_n (v : Byte) (s : State) : (writeData v s).n = s.n := rfl
@[simp] theorem writeData_lastZero (v : Byte) (s : State) : (writeData v s).lastZero = s.lastZero := rfl
@[simp] theorem writeData_idBit (v : Byte) (s : State) : (writeData v s).idBit = s.idBit := rfl
@[simp] theorem writeData_cmpBit (v : Byte) (s : State) : (writeData v s).cmpBit = s.cmpBit := rfl
@[simp] theorem writeData_dir (v : Byte) (s : State) : (writeData v s).dir = s.dir := rfl
@[simp] theorem writeData_latPpd (v : Byte) (s : State) : (writeData v s).latPpd = s.latPpd := rfl
@[simp] theorem writeData_latSd (v : Byte) (s : State) : (writeData v s).latSd = s.latSd := rfl
@[simp] theorem writeData_phase (v : Byte) (s : State) : (writeData v s).phase = s.phase := rfl
@[simp] theorem writeData_busSync (v : Byte) (s : State) : (writeData v s).busSync = s.busSync := rfl
@[simp] theorem writeData_arg (v : Byte) (s : State) : (writeData v s).arg = s.arg := rfl
@[simp] theorem writeData_result (v : Byte) (s : State) : (writeData v s).result = s.result := rfl
@[simp] theorem writeData_data (v : Byte) (s : State) : (writeData v s).data = v := rfl
@[simp] theorem writeData_dataWritten (v : Byte) (s : State) : (writeData v s).dataWritten = true := rfl
@[simp] theorem writeData_idOut (v : Byte) (s : State) : (writeData v s).idOut = s.idOut := rfl
@[simp] theorem writeData_idWritten (v : Byte) (s : State) : (writeData v s).idWritten = s.idWritten := rfl
@[simp] theorem writeData_params (v : Byte) (s : State) : (writeData v s).params = s.params := rfl
@[simp] theorem writeData_env (v : Byte) (s : State) : (writeData v s).env = s.env := rfl
@[simp] theorem writeData_host (v : Byte) (s : State) : (writeData v s).host = s.host := rfl
@[simp] theorem writeData_arrivals (v : Byte) (s : State) : (writeData v s).arrivals = s.arrivals := rfl
@[simp] theorem writeData_seen (v : Byte) (s : State) : (writeData v s).seen = s.seen := rfl

/-! ### `writeRom` -/

@[simp] theorem writeRom_ld (k : Nat) (b : Bool) (s : State) : (writeRom k b s).ld = s.ld := rfl
@[simp] theorem writeRom_lfd (k : Nat) (b : Bool) (s : State) : (writeRom k b s).lfd = s.lfd := rfl
@[simp] theorem writeRom_exh (k : Nat) (b : Bool) (s : State) : (writeRom k b s).exh = s.exh := rfl
@[simp] theorem writeRom_rom (k : Nat) (b : Bool) (s : State) : (writeRom k b s).rom = setBit s.rom k b := rfl
@[simp] theorem writeRom_romWritten (k : Nat) (b : Bool) (s : State) :
    (writeRom k b s).romWritten = setBit s.romWritten k true := rfl
@[simp] theorem writeRom_n (k : Nat) (b : Bool) (s : State) : (writeRom k b s).n = s.n := rfl
@[simp] theorem writeRom_lastZero (k : Nat) (b : Bool) (s : State) : (writeRom k b s).lastZero = s.lastZero := rfl
@[simp] theorem writeRom_idBit (k : Nat) (b : Bool) (s : State) : (writeRom k b s).idBit = s.idBit := rfl
@[simp] theorem writeRom_cmpBit (k : Nat) (b : Bool) (s : State) : (writeRom k b s).cmpBit = s.cmpBit := rfl
@[simp] theorem writeRom_dir (k : Nat) (b : Bool) (s : State) : (writeRom k b s).dir = s.dir := rfl
@[simp] theorem writeRom_latPpd (k : Nat) (b : Bool) (s : State) : (writeRom k b s).latPpd = s.latPpd := rfl
@[simp] theorem writeRom_latSd (k : Nat) (b : Bool) (s : State) : (writeRom k b s).latSd = s.latSd := rfl
@[simp] theorem writeRom_phase (k : Nat) (b : Bool) (s : State) : (writeRom k b s).phase = s.phase := rfl
@[simp] theorem writeRom_busSync (k : Nat) (b : Bool) (s : State) : (writeRom k b s).busSync = s.busSync := rfl
@[simp] theorem writeRom_arg (k : Nat) (b : Bool) (s : State) : (writeRom k b s).arg = s.arg := rfl
@[simp] theorem writeRom_result (k : Nat) (b : Bool) (s : State) : (writeRom k b s).result = s.result := rfl
@[simp] theorem writeRom_data (k : Nat) (b : Bool) (s : State) : (writeRom k b s).data = s.data := rfl
@[simp] theorem writeRom_dataWritten (k : Nat) (b : Bool) (s : State) :
    (writeRom k b s).dataWritten = s.dataWritten := rfl
@[simp] theorem writeRom_idOut (k : Nat) (b : Bool) (s : State) : (writeRom k b s).idOut = s.idOut := rfl
@[simp] theorem writeRom_idWritten (k : Nat) (b : Bool) (s : State) : (writeRom k b s).idWritten = s.idWritten := rfl
@[simp] theorem writeRom_params (k : Nat) (b : Bool) (s : State) : (writeRom k b s).params = s.params := rfl
@[simp] theorem writeRom_env (k : Nat) (b : Bool) (s : State) : (writeRom k b s).env = s.env := rfl
@[simp] theorem writeRom_host (k : Nat) (b : Bool) (s : State) : (writeRom k b s).host = s.host := rfl
@[simp] theorem writeRom_arrivals (k : Nat) (b : Bool) (s : State) : (writeRom k b s).arrivals = s.arrivals := rfl
@[simp] theorem writeRom_seen (k : Nat) (b : Bool) (s : State) : (writeRom k b s).seen = s.seen := rfl

/-! ### `recordDir` -/

@[simp] theorem recordDir_ld (d : Bool) (s : State) : (recordDir d s).ld = s.ld := rfl
@[simp] theorem recordDir_lfd (d : Bool) (s : State) :
    (recordDir d s).lfd = if ((s.idBit == s.cmpBit) && !d) && s.n ≤ 8#7 then s.n.setWidth 4 else s.lfd := rfl
@[simp] theorem recordDir_exh (d : Bool) (s : State) : (recordDir d s).exh = s.exh := rfl
@[simp] theorem recordDir_rom (d : Bool) (s : State) : (recordDir d s).rom = setBit s.rom (cursorIndex s) d := rfl
@[simp] theorem recordDir_romWritten (d : Bool) (s : State) :
    (recordDir d s).romWritten = setBit s.romWritten (cursorIndex s) true := rfl
@[simp] theorem recordDir_n (d : Bool) (s : State) : (recordDir d s).n = s.n := rfl
@[simp] theorem recordDir_lastZero (d : Bool) (s : State) :
    (recordDir d s).lastZero = if (s.idBit == s.cmpBit) && !d then s.n else s.lastZero := rfl
@[simp] theorem recordDir_idBit (d : Bool) (s : State) : (recordDir d s).idBit = s.idBit := rfl
@[simp] theorem recordDir_cmpBit (d : Bool) (s : State) : (recordDir d s).cmpBit = s.cmpBit := rfl
@[simp] theorem recordDir_dir (d : Bool) (s : State) : (recordDir d s).dir = d := rfl
@[simp] theorem recordDir_latPpd (d : Bool) (s : State) : (recordDir d s).latPpd = s.latPpd := rfl
@[simp] theorem recordDir_latSd (d : Bool) (s : State) : (recordDir d s).latSd = s.latSd := rfl
@[simp] theorem recordDir_phase (d : Bool) (s : State) : (recordDir d s).phase = s.phase := rfl
@[simp] theorem recordDir_busSync (d : Bool) (s : State) : (recordDir d s).busSync = s.busSync := rfl
@[simp] theorem recordDir_arg (d : Bool) (s : State) : (recordDir d s).arg = s.arg := rfl
@[simp] theorem recordDir_result (d : Bool) (s : State) : (recordDir d s).result = s.result := rfl
@[simp] theorem recordDir_data (d : Bool) (s : State) : (recordDir d s).data = s.data := rfl
@[simp] theorem recordDir_dataWritten (d : Bool) (s : State) : (recordDir d s).dataWritten = s.dataWritten := rfl
@[simp] theorem recordDir_idOut (d : Bool) (s : State) : (recordDir d s).idOut = s.idOut := rfl
@[simp] theorem recordDir_idWritten (d : Bool) (s : State) : (recordDir d s).idWritten = s.idWritten := rfl
@[simp] theorem recordDir_params (d : Bool) (s : State) : (recordDir d s).params = s.params := rfl
@[simp] theorem recordDir_env (d : Bool) (s : State) : (recordDir d s).env = s.env := rfl
@[simp] theorem recordDir_host (d : Bool) (s : State) : (recordDir d s).host = s.host := rfl
@[simp] theorem recordDir_arrivals (d : Bool) (s : State) : (recordDir d s).arrivals = s.arrivals := rfl
@[simp] theorem recordDir_seen (d : Bool) (s : State) : (recordDir d s).seen = s.seen := rfl

/-! ### `endPass` -/

@[simp] theorem endPass_ld (s : State) : (endPass s).ld = s.lastZero := rfl
@[simp] theorem endPass_lfd (s : State) : (endPass s).lfd = s.lfd := rfl
@[simp] theorem endPass_exh (s : State) : (endPass s).exh = if s.lastZero = 0#7 then true else s.exh := rfl
@[simp] theorem endPass_rom (s : State) : (endPass s).rom = s.rom := rfl
@[simp] theorem endPass_romWritten (s : State) : (endPass s).romWritten = s.romWritten := rfl
@[simp] theorem endPass_n (s : State) : (endPass s).n = s.n := rfl
@[simp] theorem endPass_lastZero (s : State) : (endPass s).lastZero = s.lastZero := rfl
@[simp] theorem endPass_idBit (s : State) : (endPass s).idBit = s.idBit := rfl
@[simp] theorem endPass_cmpBit (s : State) : (endPass s).cmpBit = s.cmpBit := rfl
@[simp] theorem endPass_dir (s : State) : (endPass s).dir = s.dir := rfl
@[simp] theorem endPass_latPpd (s : State) : (endPass s).latPpd = s.latPpd := rfl
@[simp] theorem endPass_latSd (s : State) : (endPass s).latSd = s.latSd := rfl
@[simp] theorem endPass_phase (s : State) : (endPass s).phase = s.phase := rfl
@[simp] theorem endPass_busSync (s : State) : (endPass s).busSync = s.busSync := rfl
@[simp] theorem endPass_arg (s : State) : (endPass s).arg = s.arg := rfl
@[simp] theorem endPass_result (s : State) : (endPass s).result = s.result := rfl
@[simp] theorem endPass_data (s : State) : (endPass s).data = s.data := rfl
@[simp] theorem endPass_dataWritten (s : State) : (endPass s).dataWritten = s.dataWritten := rfl
@[simp] theorem endPass_idOut (s : State) : (endPass s).idOut = s.idOut := rfl
@[simp] theorem endPass_idWritten (s : State) : (endPass s).idWritten = s.idWritten := rfl
@[simp] theorem endPass_params (s : State) : (endPass s).params = s.params := rfl
@[simp] theorem endPass_env (s : State) : (endPass s).env = s.env := rfl
@[simp] theorem endPass_host (s : State) : (endPass s).host = s.host := rfl
@[simp] theorem endPass_arrivals (s : State) : (endPass s).arrivals = s.arrivals := rfl
@[simp] theorem endPass_seen (s : State) : (endPass s).seen = s.seen := rfl

/-! ### `publishId` -/

@[simp] theorem publishId_ld (s : State) : (publishId s).ld = s.ld := rfl
@[simp] theorem publishId_lfd (s : State) : (publishId s).lfd = s.lfd := rfl
@[simp] theorem publishId_exh (s : State) : (publishId s).exh = s.exh := rfl
@[simp] theorem publishId_rom (s : State) : (publishId s).rom = s.rom := rfl
@[simp] theorem publishId_romWritten (s : State) : (publishId s).romWritten = s.romWritten := rfl
@[simp] theorem publishId_n (s : State) : (publishId s).n = s.n := rfl
@[simp] theorem publishId_lastZero (s : State) : (publishId s).lastZero = s.lastZero := rfl
@[simp] theorem publishId_idBit (s : State) : (publishId s).idBit = s.idBit := rfl
@[simp] theorem publishId_cmpBit (s : State) : (publishId s).cmpBit = s.cmpBit := rfl
@[simp] theorem publishId_dir (s : State) : (publishId s).dir = s.dir := rfl
@[simp] theorem publishId_latPpd (s : State) : (publishId s).latPpd = s.latPpd := rfl
@[simp] theorem publishId_latSd (s : State) : (publishId s).latSd = s.latSd := rfl
@[simp] theorem publishId_phase (s : State) : (publishId s).phase = s.phase := rfl
@[simp] theorem publishId_busSync (s : State) : (publishId s).busSync = s.busSync := rfl
@[simp] theorem publishId_arg (s : State) : (publishId s).arg = s.arg := rfl
@[simp] theorem publishId_result (s : State) : (publishId s).result = s.result := rfl
@[simp] theorem publishId_data (s : State) : (publishId s).data = s.data := rfl
@[simp] theorem publishId_dataWritten (s : State) : (publishId s).dataWritten = s.dataWritten := rfl
@[simp] theorem publishId_idOut (s : State) : (publishId s).idOut = s.rom := rfl
@[simp] theorem publishId_idWritten (s : State) : (publishId s).idWritten = true := rfl
@[simp] theorem publishId_params (s : State) : (publishId s).params = s.params := rfl
@[simp] theorem publishId_env (s : State) : (publishId s).env = s.env := rfl
@[simp] theorem publishId_host (s : State) : (publishId s).host = s.host := rfl
@[simp] theorem publishId_arrivals (s : State) : (publishId s).arrivals = s.arrivals := rfl
@[simp] theorem publishId_seen (s : State) : (publishId s).seen = s.seen := rfl

end Sys2Proof.Machine
end

