-- ==== Sys2Proof/Laws/Bits.lean ====
section
/-! SUPPORT. Bits of the identifier buffer and of bytes. -/

namespace Sys2Proof.Machine

/-- A bit after `setBit`: the new one at `k`, the old one elsewhere. -/
theorem getLsbD_setBit (w : BitVec 64) (k : Nat) (b : Bool) (j : Nat) (hj : j < 64) :
    (setBit w k b).getLsbD j = if j = k then b else w.getLsbD j := by
  unfold setBit
  by_cases h : j = k
  · subst h; cases b <;> simp [hj]
  · cases b <;> simp [h, hj]

/-- A 64-bit word is all ones when each of its bits is. -/
theorem eq_allOnes_of_bits (w : BitVec 64) (h : ∀ k, k < 64 → w.getLsbD k = true) :
    w = BitVec.allOnes 64 := by
  apply BitVec.eq_of_getLsbD_eq
  intro i hi
  rw [h i hi, BitVec.getLsbD_allOnes, decide_eq_true hi]

/-- Byte 0 of a word, bit by bit. -/
theorem getLsbD_idByte_zero (w : Ident) (j : Nat) (hj : j < 8) : (idByte w 0).getLsbD j = w.getLsbD j := by
  simp [idByte, hj]

/-- Byte 0 is 0x00 exactly when positions 1 to 8 are all 0. -/
theorem idByte_zero_eq_zero (w : Ident) :
    idByte w 0 = 0x00#8 ↔ ∀ k, k < 8 → w.getLsbD k = false := by
  constructor
  · intro h k hk
    rw [← getLsbD_idByte_zero w k hk, h]; simp
  · intro h
    apply BitVec.eq_of_getLsbD_eq
    intro i hi
    rw [getLsbD_idByte_zero w i hi, h i hi]; simp

/-- The index of a cursor within 1 to 64. -/
theorem cursorIndex_eq (s : State) (h : 1 ≤ s.n.toNat) : cursorIndex s = s.n.toNat - 1 := by
  have := s.n.isLt
  simp only [cursorIndex]
  bv_omega

end Sys2Proof.Machine
end

