-- ==== Sys2Proof/Laws/Transport.lean ====
section
/-! SUPPORT. What transport calls, busy-waits and level-T primitives do (spec/40_bus_primitives.md R103 to R110). -/

namespace Sys2Proof.Machine

@[simp] theorem callsOf_call (c : Call) (l : List BusEvent) : callsOf (.call c :: l) = callsOf l ++ [c] := rfl
@[simp] theorem callsOf_prim (p : Prim) (l : List BusEvent) : callsOf (.prim p :: l) = callsOf l := rfl
@[simp] theorem primsOf_call (c : Call) (l : List BusEvent) : primsOf (.call c :: l) = primsOf l := rfl
@[simp] theorem primsOf_prim (p : Prim) (l : List BusEvent) : primsOf (.prim p :: l) = primsOf l ++ [p] := rfl

/-! ### One call -/

/-- A fixed reply is taken, and recorded with its call. -/
theorem callTransport_fixed (c : Call) (e : Env) (r : Reply) (rest : List Reply) (h : e.replies = r :: rest) :
    callTransport c e = { e with replies := rest, reply := r, log := .call c :: e.log } := by
  simp [callTransport, h]

/-- Without a fixed reply a free one is drawn. -/
theorem callTransport_free (c : Call) (e : Env) (h : e.replies = []) :
    callTransport c e =
      { e with reply := Config.freeReply e.draws, draws := e.draws + 1, log := .call c :: e.log } := by
  simp [callTransport, h]

@[simp] theorem callTransport_log (c : Call) (e : Env) : (callTransport c e).log = .call c :: e.log := by
  unfold callTransport; split <;> rfl
@[simp] theorem callTransport_level (c : Call) (e : Env) : (callTransport c e).level = e.level := by
  unfold callTransport; split <;> rfl
@[simp] theorem callTransport_answers (c : Call) (e : Env) : (callTransport c e).answers = e.answers := by
  unfold callTransport; split <;> rfl
@[simp] theorem callTransport_bus (c : Call) (e : Env) : (callTransport c e).bus = e.bus := by
  unfold callTransport; split <;> rfl

@[simp] theorem drawExpired_log (e : Env) : (drawExpired e).2.log = e.log := by
  unfold drawExpired; split <;> rfl
@[simp] theorem drawExpired_level (e : Env) : (drawExpired e).2.level = e.level := by
  unfold drawExpired; split <;> rfl
@[simp] theorem drawExpired_answers (e : Env) : (drawExpired e).2.answers = e.answers := by
  unfold drawExpired; split <;> rfl
@[simp] theorem drawExpired_bus (e : Env) : (drawExpired e).2.bus = e.bus := by
  unfold drawExpired; split <;> rfl
@[simp] theorem drawExpired_reply (e : Env) : (drawExpired e).2.reply = e.reply := by
  unfold drawExpired; split <;> rfl

/-! ### What level T leaves alone -/

/-- `e'` differs from `e` only where level T writes: replies, timers, the reply latch, draws and calls in the log. -/
structure WireFrame (e e' : Env) : Prop where
  level : e'.level = e.level
  answers : e'.answers = e.answers
  bus : e'.bus = e.bus
  prims : primsOf e'.log = primsOf e.log

theorem WireFrame.refl (e : Env) : WireFrame e e := ⟨rfl, rfl, rfl, rfl⟩

theorem WireFrame.trans {e1 e2 e3 : Env} (h : WireFrame e1 e2) (h' : WireFrame e2 e3) : WireFrame e1 e3 :=
  ⟨h'.level.trans h.level, h'.answers.trans h.answers, h'.bus.trans h.bus, h'.prims.trans h.prims⟩

theorem callTransport_frame (c : Call) (e : Env) : WireFrame e (callTransport c e) :=
  ⟨by simp, by simp, by simp, by simp⟩

theorem drawExpired_frame (e : Env) : WireFrame e (drawExpired e).2 := ⟨by simp, by simp, by simp, by simp⟩

/-- A sequence keeps the frame when its parts do. -/
theorem resThen_frame {α β : Type} {e : Env} {r : Res α × Env} {k : α → Env → Res β × Env}
    (h : WireFrame e r.2) (hk : ∀ a e', WireFrame e' (k a e').2) : WireFrame e (resThen r k).2 := by
  unfold resThen
  split
  · exact h.trans (hk _ _)
  · exact h

theorem judgeReply_frame (e : Env) : WireFrame e (judgeReply e).2 := by
  unfold judgeReply; split <;> exact WireFrame.refl e

theorem busyWait_frame (P : Params) (fuel : Nat) (e : Env) : WireFrame e (busyWait P fuel e).2 := by
  induction fuel generalizing e with
  | zero =>
    simp only [busyWait, judgePoll]
    split <;> (try split) <;> exact callTransport_frame _ _
  | succ fuel ih =>
    simp only [busyWait, judgePoll]
    split
    · exact callTransport_frame _ _
    · split
      · split
        · exact (callTransport_frame _ _).trans (drawExpired_frame _)
        · exact ((callTransport_frame _ _).trans (drawExpired_frame _)).trans (ih _)
      · exact callTransport_frame _ _

theorem sendBetweenWaits_frame (P : Params) (i : Instr) (e : Env) : WireFrame e (sendBetweenWaits P i e).2 :=
  resThen_frame (busyWait_frame _ _ _) fun _ _ =>
    resThen_frame ((callTransport_frame _ _).trans (judgeReply_frame _)) fun _ _ => busyWait_frame _ _ _

theorem statusResult_frame {e : Env} {r : Res Byte × Env} (h : WireFrame e r.2) : WireFrame e (statusResult r).2 :=
  resThen_frame h fun _ _ => WireFrame.refl _

theorem primTransactions_frame (P : Params) (p : Prim) (e : Env) : WireFrame e (primTransactions P p e).2 := by
  cases p with
  | reset | writeBit | readBit | writeByte => exact statusResult_frame (sendBetweenWaits_frame _ _ _)
  | readByte =>
    exact resThen_frame (sendBetweenWaits_frame _ _ _) fun _ _ =>
      resThen_frame ((callTransport_frame _ _).trans (judgeReply_frame _)) fun _ _ =>
      resThen_frame ((callTransport_frame _ _).trans (judgeReply_frame _)) fun _ _ => WireFrame.refl _

/-! ### How a wait ends (R103 to R105) -/

/-- What the last transport answer was when a part of a primitive ended: not busy and successful after `ok`, `fail`
after TRANSPORT_ERROR, busy after TIMEOUT. -/
def endsAsAnswered (busyByte : Prop) (r : Res Byte) (e : Env) : Prop :=
  match r with
  | .ok b => e.reply = .ok b ∧ (busyByte → statusBusy b = false)
  | .err .transportError => e.reply = .fail
  | .err .timeout => ∃ st, statusBusy st = true ∧ e.reply = .ok st

theorem busyWait_ends (P : Params) (fuel : Nat) (e : Env) :
    endsAsAnswered True (busyWait P fuel e).1 (busyWait P fuel e).2 := by
  induction fuel generalizing e with
  | zero =>
    simp only [busyWait, judgePoll]
    split
    · simpa [endsAsAnswered]
    · split
      · exact ⟨_, by assumption, by assumption⟩
      · simp_all [endsAsAnswered]
  | succ fuel ih =>
    simp only [busyWait, judgePoll]
    split
    · simpa [endsAsAnswered]
    · split
      · split
        · exact ⟨_, by assumption, by simpa⟩
        · exact ih _
      · simp_all [endsAsAnswered]

/-- The calls of a wait: status reads, at least one. -/
theorem busyWait_calls (P : Params) (fuel : Nat) (e : Env) :
    ∃ m, 1 ≤ m ∧ callsOf (busyWait P fuel e).2.log =
      callsOf e.log ++ List.replicate m (.sendRecv [P.bcSrp, P.ptrStatus]) := by
  induction fuel generalizing e with
  | zero =>
    refine ⟨1, le_rfl, ?_⟩
    simp only [busyWait, judgePoll]
    split <;> (try split) <;> simp [callStatus, encode, pointerByte]
  | succ fuel ih =>
    simp only [busyWait, judgePoll]
    split
    · exact ⟨1, le_rfl, by simp [callStatus, encode, pointerByte]⟩
    · split
      · split
        · exact ⟨1, le_rfl, by simp [callStatus, encode, pointerByte]⟩
        · obtain ⟨m, _, h⟩ := ih (drawExpired (callStatus P e)).2
          refine ⟨m + 1, by omega, ?_⟩
          rw [h]
          simp [callStatus, encode, pointerByte, List.replicate_succ]
      · exact ⟨1, le_rfl, by simp [callStatus, encode, pointerByte]⟩

/-- A wait whose first poll answers a byte that is not busy ends with that byte. -/
theorem busyWait_first (P : Params) (fuel : Nat) (e : Env) (st : Byte) (rest : List Reply)
    (h : e.replies = .ok st :: rest) (hst : statusBusy st = false) :
    busyWait P fuel e =
      (.ok st, { e with
        replies := rest, reply := .ok st, log := .call (.sendRecv [P.bcSrp, P.ptrStatus]) :: e.log }) := by
  cases fuel <;>
    simp [busyWait, judgePoll, callStatus, callTransport_fixed _ _ _ _ h, hst, encode, pointerByte]

/-- A wait whose first poll reads busy with the timer expired then is a TIMEOUT. -/
theorem busyWait_expired (P : Params) (fuel : Nat) (e : Env) (st : Byte) (rest : List Reply) (more : List Bool)
    (h : e.replies = .ok st :: rest) (hst : statusBusy st = true) (ht : e.timers = true :: more) :
    (busyWait P fuel e).1 = .err .timeout := by
  cases fuel <;>
    simp [busyWait, judgePoll, callStatus, callTransport_fixed _ _ _ _ h, hst, drawExpired, ht]

/-- A wait whose first poll fails is a TRANSPORT_ERROR. -/
theorem busyWait_fails (P : Params) (fuel : Nat) (e : Env) (rest : List Reply) (h : e.replies = .fail :: rest) :
    (busyWait P fuel e).1 = .err .transportError := by
  cases fuel <;> simp [busyWait, judgePoll, callStatus, callTransport_fixed _ _ _ _ h]

/-! ### What a sequence of calls heeds (spec/20_memory.md R63, spec/40_bus_primitives.md R102) -/

/-- From `e`, a part of a primitive made `calls` and ended as `r`: a call answered `fail` is its last and ends it with
TRANSPORT_ERROR; each call uses up one fixed reply; after an error the last answer is the one that decided, and after
TIMEOUT the last call is `status`. -/
structure Heeds {α : Type} (status : Call) (e : Env) (r : Res α × Env) (calls : List Call) : Prop where
  made : callsOf r.2.log = callsOf e.log ++ calls
  fails : ∀ pre rest, e.replies = pre ++ .fail :: rest → pre.length < calls.length →
    calls.length = pre.length + 1 ∧ r.1 = .err .transportError ∧ r.2.replies = rest ∧ r.2.reply = .fail
  used : calls.length ≤ e.replies.length → r.2.replies = e.replies.drop calls.length
  lastFail : r.1 = .err .transportError → r.2.reply = .fail ∧ calls ≠ []
  lastBusy : r.1 = .err .timeout → (∃ st, statusBusy st = true ∧ r.2.reply = .ok st) ∧ ∃ before, calls = before ++ [status]

/-- A part that went on after `calls` met no `fail` among their answers. -/
theorem Heeds.past {α : Type} {status : Call} {e e1 : Env} {a : α} {calls : List Call}
    (h : Heeds status e (.ok a, e1) calls) {pre rest : List Reply} (he : e.replies = pre ++ .fail :: rest) :
    calls.length ≤ pre.length ∧ e1.replies = pre.drop calls.length ++ .fail :: rest := by
  have hle : calls.length ≤ pre.length := by
    by_contra hc
    cases (h.fails pre rest he (by omega)).2.1
  refine ⟨hle, ?_⟩
  have hu : e1.replies = e.replies.drop calls.length := h.used (by rw [he]; simp; omega)
  rw [hu, he, List.drop_append_of_le_length hle]

/-- A sequence heeds its answers when its parts do. -/
theorem Heeds.append {α β : Type} {status : Call} {e e1 : Env} {a : α} {calls more : List Call} {r : Res β × Env}
    (h : Heeds status e (.ok a, e1) calls) (h' : Heeds status e1 r more) : Heeds status e r (calls ++ more) where
  made := by rw [h'.made, h.made, List.append_assoc]
  fails := by
    intro pre rest he hl
    obtain ⟨hle, he1⟩ := h.past he
    rw [List.length_append] at hl ⊢
    obtain ⟨h1, h2⟩ := h'.fails _ _ he1 (by rw [List.length_drop]; omega)
    rw [List.length_drop] at h1
    exact ⟨by omega, h2⟩
  used := by
    intro hl
    rw [List.length_append] at hl
    have hu : e1.replies = e.replies.drop calls.length := h.used (by omega)
    rw [h'.used (by rw [hu, List.length_drop]; omega), hu, List.drop_drop, List.length_append]
  lastFail := fun hh => ⟨(h'.lastFail hh).1, by simp [(h'.lastFail hh).2]⟩
  lastBusy := fun hh => by
    obtain ⟨hst, before, hb⟩ := h'.lastBusy hh
    exact ⟨hst, calls ++ before, by rw [hb, List.append_assoc]⟩

theorem resThen_heeds {α β : Type} {status : Call} {e : Env} {r : Res α × Env} {k : α → Env → Res β × Env}
    {calls : List Call} (h : Heeds status e r calls) (hk : ∀ a e', ∃ more, Heeds status e' (k a e') more) :
    ∃ all, Heeds status e (resThen r k) all := by
  obtain ⟨r1, e1⟩ := r
  cases r1 with
  | ok a =>
    obtain ⟨more, h'⟩ := hk a e1
    exact ⟨_, h.append h'⟩
  | err x =>
    refine ⟨calls, h.made, fun pre rest he hl => ?_, h.used, fun hh => ?_, fun hh => ?_⟩
    · obtain ⟨h1, h2, h3⟩ := h.fails pre rest he hl
      cases h2
      exact ⟨h1, rfl, h3⟩
    · cases hh; exact h.lastFail rfl
    · cases hh; exact h.lastBusy rfl

/-- One call and its judgement. -/
theorem judgeReply_heeds (status c : Call) (e : Env) : Heeds status e (judgeReply (callTransport c e)) [c] := by
  cases hr : e.replies with
  | nil =>
    rw [callTransport_free _ _ hr]
    unfold judgeReply
    refine ⟨by split <;> simp, fun pre rest he => by simp [hr] at he, fun hl => by simp [hr] at hl, fun hh => ?_,
      fun hh => by split at hh <;> cases hh⟩
    split at hh
    · rename_i h; exact ⟨h, by simp⟩
    · cases hh
  | cons x rest =>
    rw [callTransport_fixed _ _ _ _ hr]
    unfold judgeReply
    refine ⟨by split <;> simp, fun pre rest' he hl => ?_, fun _ => by simp only [hr]; split <;> simp, fun hh => ?_,
      fun hh => by split at hh <;> cases hh⟩
    · have hp : pre = [] := by cases pre <;> simp_all
      subst hp
      rw [hr, List.nil_append, List.cons.injEq] at he
      obtain ⟨rfl, rfl⟩ := he
      exact ⟨rfl, rfl, rfl, rfl⟩
    · split at hh
      · rename_i h; exact ⟨h, by simp⟩
      · cases hh

/-- A call whose answer is a success, whatever is then made of it, changed by nothing but timers and draws. -/
theorem Heeds.success {α : Type} {status c : Call} {e e2 : Env} {st : Byte} (a : α)
    (hr : (callTransport c e).reply = .ok st) (hlog : e2.log = (callTransport c e).log)
    (hrep : e2.replies = (callTransport c e).replies) : Heeds status e (.ok a, e2) [c] := by
  have h := judgeReply_heeds status c e
  unfold judgeReply at h
  rw [hr] at h
  refine ⟨by rw [← h.made, hlog], fun pre rest he hl => ?_, fun hl => ?_, fun hh => (by cases hh), fun hh => (by cases hh)⟩
  · cases (h.fails pre rest he hl).2.1
  · rw [← h.used hl]; exact hrep

/-- A busy poll that ends the wait. -/
theorem Heeds.expired {c : Call} {e e2 : Env} {st : Byte} (hr : (callTransport c e).reply = .ok st)
    (hb : statusBusy st = true) (hlog : e2.log = (callTransport c e).log)
    (hrep : e2.replies = (callTransport c e).replies) (hreply : e2.reply = (callTransport c e).reply) :
    Heeds c e ((.err .timeout, e2) : Res Byte × Env) [c] := by
  have h : Heeds c e (.ok (), e2) [c] := Heeds.success () hr hlog hrep
  refine ⟨h.made, fun pre rest he hl => ?_, h.used, fun hh => (by cases hh),
    fun _ => ⟨⟨st, hb, by rw [hreply, hr]⟩, [], rfl⟩⟩
  cases (h.fails pre rest he hl).2.1

@[simp] theorem drawExpired_replies (e : Env) : (drawExpired e).2.replies = e.replies := by
  unfold drawExpired; split <;> rfl

/-- A wait heeds its polls. -/
theorem busyWait_heeds (P : Params) (fuel : Nat) (e : Env) :
    ∃ calls, Heeds (.sendRecv (encode P (.brSetReadPointer .status))) e (busyWait P fuel e) calls := by
  induction fuel generalizing e with
  | zero =>
    refine ⟨[.sendRecv (encode P (.brSetReadPointer .status))], ?_⟩
    have h := judgeReply_heeds (.sendRecv (encode P (.brSetReadPointer .status)))
      (.sendRecv (encode P (.brSetReadPointer .status))) e
    unfold busyWait judgePoll callStatus
    unfold judgeReply at h
    cases hr : (callTransport (.sendRecv (encode P (.brSetReadPointer .status))) e).reply with
    | fail => rw [hr] at h; exact h
    | ok st =>
      rw [hr] at h
      by_cases hb : statusBusy st = true
      · simp only; rw [if_pos hb]; exact Heeds.expired hr hb rfl rfl rfl
      · simp only; rw [if_neg hb]; exact h
  | succ fuel ih =>
    have h := judgeReply_heeds (.sendRecv (encode P (.brSetReadPointer .status)))
      (.sendRecv (encode P (.brSetReadPointer .status))) e
    unfold busyWait judgePoll callStatus
    unfold judgeReply at h
    cases hr : (callTransport (.sendRecv (encode P (.brSetReadPointer .status))) e).reply with
    | fail => rw [hr] at h; exact ⟨_, h⟩
    | ok st =>
      rw [hr] at h
      by_cases hb : statusBusy st = true
      · simp only; rw [if_pos hb]
        by_cases hx : (drawExpired (callTransport (.sendRecv (encode P (.brSetReadPointer .status))) e)).1 = true
        · rw [if_pos hx]
          exact ⟨_, Heeds.expired hr hb (by simp) (by simp) (by simp)⟩
        · rw [if_neg hx]
          obtain ⟨more, h'⟩ := ih (drawExpired (callTransport (.sendRecv (encode P (.brSetReadPointer .status))) e)).2
          exact ⟨_, (Heeds.success () hr (by simp) (by simp)).append h'⟩
      · simp only; rw [if_neg hb]; exact ⟨_, h⟩

theorem sendBetweenWaits_heeds (P : Params) (i : Instr) (e : Env) :
    ∃ calls, Heeds (.sendRecv (encode P (.brSetReadPointer .status))) e (sendBetweenWaits P i e) calls := by
  obtain ⟨calls, h⟩ := busyWait_heeds P (waitBudget e) e
  exact resThen_heeds h fun _ e' =>
    resThen_heeds (judgeReply_heeds _ _ e') fun _ e'' => busyWait_heeds P (waitBudget e'') e''

end Sys2Proof.Machine
end

