-- ==== Sys2Proof/Laws/Primitives.lean ====
section
/-! SUPPORT. What issuing a primitive does, at every level (spec/40_bus_primitives.md R100 to R102, R111). -/

namespace Sys2Proof.Machine

@[simp] theorem resThen_ok {α β : Type} (a : α) (e : Env) (k : α → Env → Res β × Env) :
    resThen (.ok a, e) k = k a e := rfl
@[simp] theorem resThen_err {α β : Type} (x : BusError) (e : Env) (k : α → Env → Res β × Env) :
    resThen (.err x, e) k = (.err x, e) := rfl

/-- Taking a sequence apart: it ended `ok` because both parts did. -/
theorem resThen_eq_ok {α β : Type} {r : Res α × Env} {k : α → Env → Res β × Env} {b : β}
    (h : (resThen r k).1 = .ok b) : ∃ a, r.1 = .ok a ∧ (k a r.2).1 = .ok b ∧ (resThen r k).2 = (k a r.2).2 := by
  obtain ⟨r1, e⟩ := r
  cases r1 with
  | ok a => exact ⟨a, rfl, h, rfl⟩
  | err x => simp at h

/-- A sequence ended in an error: in its first part, or in its second. -/
theorem resThen_eq_err {α β : Type} {r : Res α × Env} {k : α → Env → Res β × Env} {x : BusError}
    (h : (resThen r k).1 = .err x) :
    (r.1 = .err x ∧ (resThen r k).2 = r.2) ∨
      ∃ a, r.1 = .ok a ∧ (k a r.2).1 = .err x ∧ (resThen r k).2 = (k a r.2).2 := by
  obtain ⟨r1, e⟩ := r
  cases r1 with
  | ok a => exact .inr ⟨a, rfl, h, rfl⟩
  | err y => exact .inl ⟨by simpa using h, rfl⟩

/-! ### The environment after a primitive -/

/-- The reference bus moves only the bus and the draws. -/
theorem primReference_keeps (P : Params) (p : Prim) (e : Env) :
    (primReference P p e).2.level = e.level ∧ (primReference P p e).2.log = e.log ∧
      (primReference P p e).2.answers = e.answers := by
  unfold primReference
  split <;> simp

theorem primAnswer_keeps (e : Env) :
    (primAnswer e).2.level = e.level ∧ (primAnswer e).2.log = e.log ∧ (primAnswer e).2.bus = e.bus := by
  unfold primAnswer
  split <;> simp

/-- Issuing a primitive keeps the level in use. -/
@[simp] theorem primRun_level (P : Params) (p : Prim) (e : Env) : (primRun P p e).2.level = e.level := by
  have key : ∀ e0 : Env, (primRaw P p e0).2.level = e0.level := by
    intro e0
    unfold primRaw
    split
    · exact (primTransactions_frame P p e0).level
    · exact (primAnswer_keeps e0).1
    · exact (primReference_keeps P p e0).1
  unfold primRun
  generalize he0 : ({ e with log := .prim p :: e.log } : Env) = e0
  have := key e0
  cases h : primRaw P p e0 with
  | mk r e1 => cases r <;> simp_all [resThen] <;> rw [← he0]

/-- Issuing a primitive records it, once. -/
@[simp] theorem primRun_prims (P : Params) (p : Prim) (e : Env) :
    primsOf (primRun P p e).2.log = primsOf e.log ++ [p] := by
  have key : ∀ e0 : Env, primsOf (primRaw P p e0).2.log = primsOf e0.log := by
    intro e0
    unfold primRaw
    split
    · exact (primTransactions_frame P p e0).prims
    · rw [(primAnswer_keeps e0).2.1]
    · rw [(primReference_keeps P p e0).2.1]
  unfold primRun
  generalize he0 : ({ e with log := .prim p :: e.log } : Env) = e0
  have h1 := key e0
  have h2 : primsOf e0.log = primsOf e.log ++ [p] := by rw [← he0]; simp
  cases h : primRaw P p e0 with
  | mk r e1 => cases r <;> simp_all [resThen]

/-- A completed primitive reports only what R100 gives it. -/
theorem primRun_reports (P : Params) (p : Prim) (e : Env) (v : PrimValue) (h : (primRun P p e).1 = .ok v) :
    reported p v = v := by
  obtain ⟨w, _, hv, _⟩ := resThen_eq_ok h
  have : reported p w = v := by simpa using hv
  rw [← this]
  cases p <;> rfl

/-- Level P with an answer fixed. -/
theorem primRun_answer (P : Params) (p : Prim) (e : Env) (a : Answer) (rest : List Answer)
    (hl : e.level = .primitives) (ha : e.answers = a :: rest) :
    primRun P p e =
      (match a.error with | some x => .err x | none => .ok (reported p a.value),
        { e with answers := rest, log := .prim p :: e.log }) := by
  simp only [primRun, primRaw, hl, primAnswer, ha]
  cases a.error <;> rfl

/-- The answer at level P that stands for an outcome. -/
def answerOf : Res PrimValue → Answer
  | .ok v => { error := none, value := v }
  | .err x => { error := some x, value := { presence := false, short := false, bit := false, byte := 0x00#8 } }

/-- Every outcome, of whatever level, is an outcome of level P (R111). -/
theorem primRun_at_level_P (P : Params) (p : Prim) (e e' : Env) (rest : List Answer)
    (hl : e'.level = .primitives) (ha : e'.answers = answerOf (primRun P p e).1 :: rest) :
    primRun P p e' = ((primRun P p e).1, { e' with answers := rest, log := .prim p :: e'.log }) := by
  rw [primRun_answer P p e' _ rest hl ha]
  cases h : (primRun P p e).1 with
  | ok v => simp [answerOf, primRun_reports P p e v h]
  | err x => simp [answerOf]

/-! ### The whole state after a primitive -/

/-- After a completed primitive that is no reset BUS_SYNC is as before. -/
theorem syncAfter_ok (p : Prim) (before : Bool) (hp : p ≠ .reset) : syncAfter p false before = before := by
  cases p <;> simp_all [syncAfter]
@[simp] theorem syncAfter_err (p : Prim) (before : Bool) : syncAfter p true before = false := by
  cases p <;> rfl
@[simp] theorem syncAfter_reset (before : Bool) : syncAfter .reset false before = true := rfl
@[simp] theorem syncAfter_writeBit (b before : Bool) : syncAfter (.writeBit b) false before = before := rfl
@[simp] theorem syncAfter_readBit (before : Bool) : syncAfter .readBit false before = before := rfl
@[simp] theorem syncAfter_writeByte (v : Byte) (before : Bool) : syncAfter (.writeByte v) false before = before := rfl
@[simp] theorem syncAfter_readByte (before : Bool) : syncAfter .readByte false before = before := rfl
@[simp] theorem isErr_ok {α : Type} (a : α) : isErr (.ok a) = false := rfl
@[simp] theorem isErr_err {α : Type} (x : BusError) : isErr (.err x : Res α) = true := rfl

/-! ### A primitive and the controller -/

theorem afterPrim_ok {p : Prim} {s : State} {v : PrimValue} (h : primOutcome p s = .ok v) :
    afterPrim p s = { s with env := (primRun s.params p s.env).2, busSync := syncAfter p false s.busSync } := by
  unfold afterPrim; rw [h]; rfl

theorem afterPrim_err {p : Prim} {s : State} {e : BusError} (h : primOutcome p s = .err e) :
    afterPrim p s = { s with env := (primRun s.params p s.env).2, busSync := false } := by
  unfold afterPrim; rw [h]; rfl

theorem runPrimRow_ok {p : Prim} {s : State} {v : PrimValue} (h : primOutcome p s = .ok v) :
    runPrimRow p s = reportPrim p v (afterPrim p s) := by
  unfold runPrimRow; rw [h]

theorem runPrimRow_err {p : Prim} {s : State} {e : BusError} (h : primOutcome p s = .err e) :
    runPrimRow p s = complete (errorCode e) false false false (afterPrim p s) := by
  unfold runPrimRow; rw [h]

/-! ### The reference bus -/

/-- Without a fault laid over it, a primitive on the reference bus completes with what the devices answer. -/
theorem primRun_reference (P : Params) (p : Prim) {e : Env} (hl : e.level = .reference) (ho : e.bus.overlay = []) :
    primRun P p e = (.ok (reported p (busAnswer P p e.bus (Config.freeAnswer e.draws).value).1),
      { e with
        log := .prim p :: e.log, draws := e.draws + 1
        bus := (busAnswer P p e.bus (Config.freeAnswer e.draws).value).2 }) := by
  unfold primRun primRaw primReference
  simp only [hl, ho]
  rfl

/-- The devices that stay live after a write (spec/20_memory.md R67.4). -/
theorem mem_narrow (p : Nat) (v : Bool) (b : RefBus) (d : Ident) :
    d ∈ (narrow p v b).live ↔ d ∈ b.live ∧ d.getLsbD (p - 1) = v := by
  simp [narrow]

theorem wiredAnd_eq_true (live : List Ident) (k : Nat) : wiredAnd live k = true ↔ ∀ d ∈ live, d.getLsbD k = true := by
  simp [wiredAnd]

theorem wiredAndNot_eq_true (live : List Ident) (k : Nat) :
    wiredAndNot live k = true ↔ ∀ d ∈ live, d.getLsbD k = false := by
  simp [wiredAndNot]

end Sys2Proof.Machine
end

