-- ==== Sys2Proof/Laws/Sequencer.lean ====
section
/-! SUPPORT. The sequencer's rows and runs of them (spec/41_search.md R141): equations for a controller nobody else
reaches, what a row leaves alone, and what a row can answer. -/

namespace Sys2Proof.Machine

@[simp] theorem isIdle_eq_true (p : Phase) : isIdle p = true ↔ p = .idle := by cases p <;> simp [isIdle]

theorem whenIdle_idle {s : State} (h : s.phase = .idle) (run : State → Host.Outcome State Fault Refusal) :
    whenIdle s run = run s := by simp [whenIdle, h]

theorem whenIdle_busy {s : State} (h : s.phase ≠ .idle) (run : State → Host.Outcome State Fault Refusal) :
    whenIdle s run = .fault .hostOverlap := by
  unfold whenIdle
  split <;> simp_all

theorem whenSync_on {s : State} (h : s.busSync = true) (run : State → Host.Outcome State Fault Refusal) :
    whenSync s run = run s := by simp [whenSync, h]

theorem whenSync_off {s : State} (h : s.busSync = false) (run : State → Host.Outcome State Fault Refusal) :
    whenSync s run = .fault .hazardBusUndefined := by simp [whenSync, h]

/-- With nothing arriving a step of the sequencer is its row. -/
theorem sequencerStep_quiet {s : State} (h : s.arrivals = []) : sequencerStep s = runRow s := by
  simp [sequencerStep, h]

theorem runToIdle_idle (rows : Nat) {s : State} (h : s.phase = .idle) : runToIdle rows s = .next s := by
  cases rows <;> simp [runToIdle, h]

/-- One row, then the rest. -/
theorem runToIdle_next {rows : Nat} {s t : State} (hi : s.phase ≠ .idle) (ha : s.arrivals = [])
    (hr : runRow s = .next t) : runToIdle (rows + 1) s = runToIdle rows t := by
  simp [runToIdle, hi, sequencerStep_quiet ha, hr]

theorem runToIdle_fault {rows : Nat} {s : State} {f : Fault} (hi : s.phase ≠ .idle) (ha : s.arrivals = [])
    (hr : runRow s = .fault f) : runToIdle (rows + 1) s = .fault f := by
  simp [runToIdle, hi, sequencerStep_quiet ha, hr]

/-- A command of one primitive, with nothing arriving. -/
theorem startPrim_quiet (p : Prim) {s : State} (ha : s.arrivals = []) :
    startPrim p s = .next (runPrimRow p s) := by
  have hrow : runRow (enterPhase (.pRun p) s) = .next (runPrimRow p s) := by
    simp only [runRow, enterPhase_phase, runPrimRow]
    have : primOutcome p (enterPhase (.pRun p) s) = primOutcome p s := rfl
    rw [this]
    cases primOutcome p s with
    | ok v => cases p <;> rfl
    | err e => rfl
  rw [startPrim, runToIdle_next (by simp) (by simpa) hrow]
  rfl

/-! ### Primitives do not see the controller's own registers -/

theorem primOutcome_congr (p : Prim) {s t : State} (hp : s.params = t.params) (he : s.env = t.env) :
    primOutcome p s = primOutcome p t := by simp [primOutcome, hp, he]

/-! ### What a row can answer, and what it leaves alone -/

/-- The fields no row writes. -/
structure RowFrame (s t : State) : Prop where
  params : t.params = s.params
  host : t.host = s.host
  arrivals : t.arrivals = s.arrivals
  seen : t.seen = s.seen
  arg : t.arg = s.arg
  level : t.env.level = s.env.level

theorem RowFrame.refl (s : State) : RowFrame s s := ⟨rfl, rfl, rfl, rfl, rfl, rfl⟩

theorem RowFrame.trans {s t u : State} (h : RowFrame s t) (h' : RowFrame t u) : RowFrame s u :=
  ⟨h'.params.trans h.params, h'.host.trans h.host, h'.arrivals.trans h.arrivals, h'.seen.trans h.seen,
    h'.arg.trans h.arg, h'.level.trans h.level⟩

theorem runPrimRow_frame (p : Prim) (s : State) : RowFrame s (runPrimRow p s) := by
  unfold runPrimRow
  split
  · cases p <;> constructor <;> simp [reportPrim]
  · constructor <;> simp

theorem resetRow_frame (s : State) : RowFrame s (resetRow s) := by
  unfold resetRow
  split
  · constructor <;> simp
  · split
    · constructor <;> simp
    · split <;> constructor <;> simp

theorem searchRow_frame (s : State) : RowFrame s (searchRow s) := by
  unfold searchRow
  split <;> constructor <;> simp

theorem readIdRow_frame (s : State) : RowFrame s (readIdRow s) := by
  unfold readIdRow
  split <;> constructor <;> simp

theorem writeDirRow_frame (s : State) : RowFrame s (writeDirRow s) := by
  unfold writeDirRow
  split <;> constructor <;> simp

/-- What the pair of bits can lead to (R134, R135). -/
theorem judgePair_cases (s : State) :
    (s.idBit = true ∧ s.cmpBit = true ∧ judgePair s = .next (abort .noResponse s)) ∨
    (∃ d, (s.idBit && s.cmpBit) = false ∧ chooseDir s = some d ∧
      judgePair s = .next (enterPhase .eWrDir (recordDir d s))) ∨
    ((s.idBit && s.cmpBit) = false ∧ chooseDir s = none ∧ judgePair s = .fault .unwrittenRead) := by
  unfold judgePair
  by_cases hb : s.idBit = true ∧ s.cmpBit = true
  · exact .inl ⟨hb.1, hb.2, by simp [hb.1, hb.2]⟩
  · have hb' : (s.idBit && s.cmpBit) = false := by simpa using hb
    rw [hb']
    cases chooseDir s with
    | some d => exact .inr (.inl ⟨d, rfl, rfl, rfl⟩)
    | none => exact .inr (.inr ⟨rfl, rfl, rfl⟩)

theorem judgePair_frame {s t : State} (h : judgePair s = .next t) : RowFrame s t := by
  rcases judgePair_cases s with ⟨-, -, hr⟩ | ⟨d, -, -, hr⟩ | ⟨-, -, hr⟩ <;>
    rw [hr] at h <;> cases h <;> constructor <;> simp

theorem readCmpRow_frame {s t : State} (h : readCmpRow s = .next t) : RowFrame s t := by
  unfold readCmpRow at h
  split at h
  · cases h; constructor <;> simp
  · refine RowFrame.trans ?_ (judgePair_frame h)
    constructor <;> simp

/-- What the row E_FINISH can answer (R136, R137). -/
theorem finishRow_cases (s : State) :
    (idByte s.rom 0 = 0x00#8 ∧ idByte s.romWritten 0 = 0xFF#8 ∧
      finishRow s = .next (complete .zeroFamily false true false (clearSearch (endPass s)))) ∨
    (idByte s.rom 0 ≠ 0x00#8 ∧ s.romWritten = BitVec.allOnes 64 ∧
      finishRow s = .next (complete .ok true true false (publishId (endPass s)))) ∨
    (s.romWritten ≠ BitVec.allOnes 64 ∧ finishRow s = .fault .unwrittenRead) := by
  have hall : s.romWritten = BitVec.allOnes 64 → idByte s.romWritten 0 = 0xFF#8 := by
    intro h; rw [h]; decide
  unfold finishRow
  split
  · rename_i h0; exact .inr (.inr ⟨fun h => h0 (hall h), rfl⟩)
  · rename_i h0
    split
    · rename_i hz; exact .inl ⟨by simpa [zeroFamily] using hz, by simpa using h0, rfl⟩
    · rename_i hz
      split
      · rename_i hw; exact .inr (.inr ⟨hw, rfl⟩)
      · rename_i hw; exact .inr (.inl ⟨by simpa [zeroFamily] using hz, by simpa using hw, rfl⟩)

/-- No row writes the hosts' side, ARG, the parameters or the level. -/
theorem runRow_frame {s t : State} (h : runRow s = .next t) : RowFrame s t := by
  unfold runRow at h
  split at h
  · cases h; exact RowFrame.refl _
  · cases h; exact resetRow_frame _
  · cases h; exact searchRow_frame _
  · cases h; exact readIdRow_frame _
  · exact readCmpRow_frame h
  · cases h; exact writeDirRow_frame _
  · rcases finishRow_cases s with ⟨-, -, hr⟩ | ⟨-, -, hr⟩ | ⟨-, hr⟩ <;>
      rw [hr] at h <;> cases h <;> constructor <;> simp
  · cases h; exact runPrimRow_frame _ _

/-- The only stop a row knows is the unwritten read of a ROM bit. -/
theorem runRow_stop (s : State) :
    (∃ t, runRow s = .next t) ∨
      (runRow s = .fault .unwrittenRead ∧ (s.phase = .eRdCmp ∨ s.phase = .eFinish)) := by
  unfold runRow
  split
  case h_5 hp =>
    unfold readCmpRow
    split
    · exact .inl ⟨_, rfl⟩
    · rcases judgePair_cases (latchCmp (by assumption : PrimValue).bit (afterPrim .readBit s)) with
        ⟨-, -, hr⟩ | ⟨d, -, -, hr⟩ | ⟨-, -, hr⟩ <;> simp [hr, hp]
  case h_7 hp =>
    rcases finishRow_cases s with ⟨-, -, hr⟩ | ⟨-, -, hr⟩ | ⟨-, hr⟩ <;> simp [hr, hp]
  all_goals exact .inl ⟨_, rfl⟩

/-- A run of rows leaves alone what each row leaves alone. -/
theorem runToIdle_frame {rows : Nat} {s t : State} (ha : s.arrivals = []) (h : runToIdle rows s = .next t) :
    RowFrame s t := by
  induction rows generalizing s with
  | zero => cases h; exact RowFrame.refl _
  | succ rows ih =>
    by_cases hi : s.phase = .idle
    · rw [runToIdle_idle _ hi] at h; cases h; exact RowFrame.refl _
    · rcases runRow_stop s with ⟨u, hu⟩ | ⟨hf, -⟩
      · rw [runToIdle_next hi ha hu] at h
        have f := runRow_frame hu
        exact f.trans (ih (f.arrivals.trans ha) h)
      · rw [runToIdle_fault hi ha hf] at h; cases h

/-- What every step of the sequencer keeps, a run of them keeps. -/
theorem runToIdle_keeps {Q : State → Prop} (hstep : ∀ u v, Q u → sequencerStep u = .next v → Q v) :
    ∀ {rows : Nat} {s t : State}, Q s → runToIdle rows s = .next t → Q t := by
  intro rows
  induction rows with
  | zero => intro s t h hr; cases hr; exact h
  | succ rows ih =>
    intro s t h hr
    unfold runToIdle at hr
    split at hr
    · cases hr; exact h
    · split at hr
      · rename_i u hu
        exact ih (hstep _ _ h hu) hr
      · cases hr
      · cases hr

/-- With nothing arriving, the only stop of a run of rows is an unwritten read. -/
theorem runToIdle_stop {rows : Nat} : ∀ {s : State}, s.arrivals = [] → ∀ f, runToIdle rows s = .fault f →
    f = .unwrittenRead := by
  induction rows with
  | zero => intro s _ f h; cases h
  | succ rows ih =>
    intro s ha f h
    by_cases hi : s.phase = .idle
    · rw [runToIdle_idle _ hi] at h; cases h
    · rcases runRow_stop s with ⟨u, hu⟩ | ⟨hf, -⟩
      · rw [runToIdle_next hi ha hu] at h
        exact ih ((runRow_frame hu).arrivals.trans ha) f h
      · rw [runToIdle_fault hi ha hf] at h; cases h; rfl

end Sys2Proof.Machine
end

