-- ==== Sys2Proof/Laws/Search.lean ====
section
/-! SUPPORT. One round of a pass as one operation: the three rows of the sequencer and one turn of the loop of
spec/41_search.md R139 are both this operation. -/

namespace Sys2Proof.Machine

/-- One round from a position on (R134, R135), then `k`. -/
def roundThen (k : State → Host.Outcome State Fault Refusal) (s : State) : Host.Outcome State Fault Refusal :=
  match primOutcome .readBit s with
  | .err e => .next (abort (errorCode e) (afterPrim .readBit s))
  | .ok v1 =>
    let s1 := latchId v1.bit (afterPrim .readBit s)
    match primOutcome .readBit s1 with
    | .err e => .next (abort (errorCode e) (afterPrim .readBit s1))
    | .ok v2 =>
      let s2 := latchCmp v2.bit (afterPrim .readBit s1)
      if s2.idBit && s2.cmpBit then .next (abort .noResponse s2)
      else match chooseDir s2 with
        | none => .fault .unwrittenRead
        | some d =>
          match primOutcome (.writeBit d) (recordDir d s2) with
          | .err e => .next (abort (errorCode e) (afterPrim (.writeBit d) (recordDir d s2)))
          | .ok _ => k (nextPosition (afterPrim (.writeBit d) (recordDir d s2)))

/-! ### The loop of R139 -/

theorem lt_iff_toNat_lt {w : Nat} (a b : BitVec w) : a < b ↔ a.toNat < b.toNat := BitVec.lt_def

/-- The two ways of writing the choice of direction agree. -/
theorem ruleDir_eq (s : State) (h : (s.idBit && s.cmpBit) = false) :
    ruleDir s.idBit s.cmpBit s = chooseDir s := by
  unfold ruleDir chooseDir cursorIndex
  cases hi : s.idBit <;> cases hc : s.cmpBit <;> simp_all
  split
  · rename_i h1; rw [if_pos ((lt_iff_toNat_lt _ _).2 h1)]
  · rename_i h1
    rw [if_neg (fun h2 => h1 ((lt_iff_toNat_lt _ _).1 h2))]
    by_cases h3 : s.n = s.ld <;> simp [h3]

/-- The two ways of writing the record agree. -/
theorem ruleRecord_eq (d : Bool) (s : State) : ruleRecord (s.idBit == s.cmpBit) d s = recordDir d s := by
  have h8 : s.n ≤ 8#7 ↔ s.n.toNat ≤ 8 := by rw [BitVec.le_def]; simp
  unfold ruleRecord recordDir cursorIndex
  by_cases hz : ((s.idBit == s.cmpBit) && !d) = true
  · have hz' : (s.idBit == s.cmpBit) = true ∧ d = false := by simpa using hz
    rw [if_pos hz', hz]
    by_cases hn : s.n.toNat ≤ 8
    · simp [hn, h8]
    · simp [hn, h8]
  · have hz' : ¬ ((s.idBit == s.cmpBit) = true ∧ d = false) := by simpa using hz
    have hz'' : ((s.idBit == s.cmpBit) && !d) = false := by simpa using hz
    rw [if_neg hz', hz'']
    simp

/-- One turn of the loop is one round. -/
theorem ruleLoop_succ (left : Nat) (s : State) : ruleLoop (left + 1) s = roundThen (ruleLoop left) s := by
  simp only [ruleLoop, roundThen]
  cases primOutcome .readBit s with
  | err e => rfl
  | ok v1 =>
    simp only
    cases h2 : primOutcome .readBit (latchId v1.bit (afterPrim .readBit s)) with
    | err e => rfl
    | ok v2 =>
      simp only
      generalize hs2 : latchCmp v2.bit (afterPrim .readBit (latchId v1.bit (afterPrim .readBit s))) = s2
      have hid : s2.idBit = v1.bit := by rw [← hs2]; rfl
      have hcmp : s2.cmpBit = v2.bit := by rw [← hs2]; rfl
      rw [← hid, ← hcmp]
      by_cases hb : s2.idBit = true ∧ s2.cmpBit = true
      · rw [if_pos hb, if_pos (by simpa using hb)]
      · have hb' : (s2.idBit && s2.cmpBit) = false := by simpa using hb
        rw [if_neg hb, ruleDir_eq _ hb', hb']
        simp only [Bool.false_eq_true, if_false]
        cases chooseDir s2 with
        | none => rfl
        | some d =>
          show (match primOutcome (.writeBit d) (ruleRecord (s2.idBit == s2.cmpBit) d s2) with
            | .err _ => _
            | .ok _ => _) = _
          rw [ruleRecord_eq]

/-! ### The rows of the sequencer -/

/-- The three rows of a round are one round. -/
theorem runToIdle_round (rows : Nat) (s : State) (ha : s.arrivals = []) :
    runToIdle (rows + 3) (enterPhase .eRdId s) =
      roundThen (fun t => runToIdle rows (enterPhase (if s.n < 64#7 then .eRdId else .eFinish) t)) s := by
  have hrow1 : runRow (enterPhase .eRdId s) = .next (readIdRow (enterPhase .eRdId s)) := rfl
  rw [runToIdle_next (by simp) (by simpa) hrow1]
  unfold readIdRow roundThen
  have ho : primOutcome .readBit (enterPhase .eRdId s) = primOutcome .readBit s := rfl
  rw [ho]
  cases primOutcome .readBit s with
  | err e => exact runToIdle_idle _ rfl
  | ok v1 =>
    simp only
    have hs1 : enterPhase .eRdCmp (latchId v1.bit (afterPrim .readBit (enterPhase .eRdId s))) =
        enterPhase .eRdCmp (latchId v1.bit (afterPrim .readBit s)) := rfl
    rw [hs1]
    generalize hg1 : latchId v1.bit (afterPrim .readBit s) = s1
    have ha1 : s1.arrivals = [] := by rw [← hg1]; simpa
    have hn1 : s1.n = s.n := by rw [← hg1]; rfl
    have hrow2 : runRow (enterPhase .eRdCmp s1) = readCmpRow (enterPhase .eRdCmp s1) := rfl
    unfold readCmpRow at hrow2
    have ho1 : primOutcome .readBit (enterPhase .eRdCmp s1) = primOutcome .readBit s1 := rfl
    rw [ho1] at hrow2
    cases hp1 : primOutcome .readBit s1 with
    | err e =>
      rw [hp1] at hrow2
      rw [runToIdle_next (by simp) (by simpa) hrow2]
      exact runToIdle_idle _ rfl
    | ok v2 =>
      rw [hp1] at hrow2
      simp only at hrow2 ⊢
      generalize hg2 : latchCmp v2.bit (afterPrim .readBit s1) = s2
      have hs2 : latchCmp v2.bit (afterPrim .readBit (enterPhase .eRdCmp s1)) = enterPhase .eRdCmp s2 := by
        rw [← hg2]; rfl
      have ha2 : s2.arrivals = [] := by rw [← hg2]; simpa
      have hn2 : s2.n = s.n := by rw [← hg2, ← hn1]; rfl
      rw [hs2] at hrow2
      have hcd : chooseDir (enterPhase .eRdCmp s2) = chooseDir s2 := rfl
      rcases judgePair_cases (enterPhase .eRdCmp s2) with ⟨h1, h2, hj⟩ | ⟨d, h12, hd, hj⟩ | ⟨h12, hd, hj⟩
      · rw [hj] at hrow2
        rw [runToIdle_next (by simp) (by simpa) hrow2, if_pos (by simpa using And.intro h1 h2)]
        exact runToIdle_idle _ rfl
      · rw [hj] at hrow2
        rw [hcd] at hd
        rw [runToIdle_next (by simp) (by simpa) hrow2, if_neg (by simpa using h12), hd]
        simp only
        have hs3 : enterPhase .eWrDir (recordDir d (enterPhase .eRdCmp s2)) =
            enterPhase .eWrDir (recordDir d s2) := rfl
        rw [hs3]
        generalize hg3 : recordDir d s2 = s3
        have ha3 : s3.arrivals = [] := by rw [← hg3]; simpa
        have hn3 : s3.n = s.n := by rw [← hg3, ← hn2]; rfl
        have hd3 : s3.dir = d := by rw [← hg3]; rfl
        have hrow3 : runRow (enterPhase .eWrDir s3) = .next (writeDirRow (enterPhase .eWrDir s3)) := rfl
        unfold writeDirRow at hrow3
        have ho3 : primOutcome (.writeBit (enterPhase .eWrDir s3).dir) (enterPhase .eWrDir s3) =
            primOutcome (.writeBit d) s3 := by rw [← hd3]; rfl
        rw [ho3] at hrow3
        rw [runToIdle_next (by simp) (by simpa) hrow3]
        cases primOutcome (.writeBit d) s3 with
        | err e => rw [← hd3]; exact runToIdle_idle _ rfl
        | ok v3 => rw [← hd3, ← hn3]; rfl
      · rw [hj] at hrow2
        rw [hcd] at hd
        rw [runToIdle_fault (by simp) (by simpa) hrow2, if_neg (by simpa using h12), hd]

/-- The row E_FINISH and the lines after the loop. -/
theorem runToIdle_finish (rows : Nat) (s : State) (ha : s.arrivals = []) :
    runToIdle (rows + 1) (enterPhase .eFinish s) = ruleEnd s := by
  have hend : ruleEnd s = finishRow (enterPhase .eFinish s) := by
    unfold ruleEnd finishRow zeroFamily endPass
    by_cases hz : s.lastZero = 0#7
    · simp [hz]; rfl
    · simp [hz]; rfl
  have hrow : runRow (enterPhase .eFinish s) = finishRow (enterPhase .eFinish s) := rfl
  rcases finishRow_cases (enterPhase .eFinish s) with ⟨-, -, hr⟩ | ⟨-, -, hr⟩ | ⟨-, hr⟩
  · rw [hr] at hrow
    rw [runToIdle_next (by simp) (by simpa) hrow, hend, hr]; exact runToIdle_idle _ rfl
  · rw [hr] at hrow
    rw [runToIdle_next (by simp) (by simpa) hrow, hend, hr]; exact runToIdle_idle _ rfl
  · rw [hr] at hrow
    rw [runToIdle_fault (by simp) (by simpa) hrow, hend, hr]

end Sys2Proof.Machine
end

