-- ==== Sys2Proof/Laws/Step.lean ====
section
/-! SUPPORT. What a step is: the host's access in IDLE, a row elsewhere; and the meanings of the host commands for a
controller nobody else reaches. -/

namespace Sys2Proof.Machine

/-- The end of a turn. -/
def finishTurn : Turn → Host.Outcome State Fault Refusal
  | .command c t => exec (decodeCmd c) t
  | .over o => o

theorem step_eq (s : State) : step s = finishTurn (nextTurn s) := by
  unfold step; cases nextTurn s <;> rfl

/-- In IDLE with nothing arriving, the host's next access is taken. -/
theorem step_access {s : State} {x : HostAccess} {rest : List HostAccess} (hi : s.phase = .idle)
    (ha : s.arrivals = []) (hh : s.host = x :: rest) :
    step s = finishTurn (hostAccess x { s with host := rest }) := by
  rw [step_eq]
  unfold nextTurn hostTurn
  rw [if_pos ((isIdle_eq_true _).2 hi), ha]
  simp only
  rw [hh]

/-- In IDLE with nothing arriving and nothing asked, the controller waits. -/
theorem step_waits {s : State} (hi : s.phase = .idle) (ha : s.arrivals = []) (hh : s.host = []) :
    step s = .next s := by
  rw [step_eq]
  unfold nextTurn hostTurn
  rw [if_pos ((isIdle_eq_true _).2 hi), ha]
  simp only
  rw [hh]
  rfl

/-- Outside IDLE with nothing arriving, a step is a row. -/
theorem step_row {s : State} (hi : s.phase ≠ .idle) (ha : s.arrivals = []) : step s = runRow s := by
  rw [step_eq]
  unfold nextTurn
  rw [if_neg (fun h => hi ((isIdle_eq_true _).1 h)), sequencerStep_quiet ha]
  rfl

/-- The reset input, in every phase. -/
theorem step_reset {s : State} {rest : List (Nat × Arrival)} (ha : s.arrivals = (0, .resetInput) :: rest) :
    step s = .next (resetController { s with arrivals := rest }) := by
  rw [step_eq]
  unfold nextTurn sequencerStep
  rw [ha]
  split <;> rfl

/-- Whatever a byte written to CMD means, it is a host command. -/
@[simp] theorem portOf_decodeCmd (c : Byte) : portOf (decodeCmd c) = .cmd := by
  unfold decodeCmd
  repeat' split
  all_goals rfl

/-! ### The meanings of the host commands, undisturbed -/

theorem exec_owReset {s : State} (hi : s.phase = .idle) (ha : s.arrivals = []) :
    exec .owReset s = .next (runPrimRow .reset s) := by
  simp only [exec, execOwReset]
  rw [whenIdle_idle hi, startPrim_quiet _ ha]

theorem exec_owWriteBit {s : State} (hi : s.phase = .idle) (ha : s.arrivals = []) (hs : s.busSync = true) :
    exec .owWriteBit s = .next (runPrimRow (.writeBit (s.arg.getLsbD 0)) s) := by
  simp only [exec, execOwWriteBit]
  rw [whenIdle_idle hi, whenSync_on hs, startPrim_quiet _ ha]; rfl

theorem exec_owReadBit {s : State} (hi : s.phase = .idle) (ha : s.arrivals = []) (hs : s.busSync = true) :
    exec .owReadBit s = .next (runPrimRow .readBit s) := by
  simp only [exec, execOwReadBit]
  rw [whenIdle_idle hi, whenSync_on hs, startPrim_quiet _ ha]

theorem exec_owWriteByte {s : State} (hi : s.phase = .idle) (ha : s.arrivals = []) (hs : s.busSync = true) :
    exec .owWriteByte s = .next (runPrimRow (.writeByte s.arg) s) := by
  simp only [exec, execOwWriteByte]
  rw [whenIdle_idle hi, whenSync_on hs, startPrim_quiet _ ha]; rfl

theorem exec_owReadByte {s : State} (hi : s.phase = .idle) (ha : s.arrivals = []) (hs : s.busSync = true) :
    exec .owReadByte s = .next (runPrimRow .readByte s) := by
  simp only [exec, execOwReadByte]
  rw [whenIdle_idle hi, whenSync_on hs, startPrim_quiet _ ha]

/-- The four commands that need BUS_SYNC stop without it (spec/70_reset_and_hazards.md R195). -/
theorem exec_hazard {s : State} (hi : s.phase = .idle) (hs : s.busSync = false) :
    exec .owWriteBit s = .fault .hazardBusUndefined ∧ exec .owReadBit s = .fault .hazardBusUndefined ∧
      exec .owWriteByte s = .fault .hazardBusUndefined ∧ exec .owReadByte s = .fault .hazardBusUndefined := by
  simp only [exec, execOwWriteBit, execOwReadBit, execOwWriteByte, execOwReadByte]
  simp only [whenIdle_idle hi, whenSync_off hs, and_self]

theorem exec_enumNext {s : State} (hi : s.phase = .idle) :
    exec .enumNext s = if s.exh then .next (complete .exhausted false false false (clearSearch s))
      else runToIdle passRows (enterPhase .eReset s) := by
  simp only [exec, execEnumNext]
  rw [whenIdle_idle hi]

theorem exec_searchReset {s : State} (hi : s.phase = .idle) :
    exec .searchReset s = .next (complete .ok false false false (clearSearch s)) := by
  simp only [exec, execSearchReset]
  rw [whenIdle_idle hi]

theorem exec_illegal (c : Byte) {s : State} (hi : s.phase = .idle) :
    exec (.illegal c) s = .next (complete .illegalCmd false false false s) := by
  simp only [exec, execIllegal]
  rw [whenIdle_idle hi]

/-- Outside IDLE every host command is an overlap (spec/70_reset_and_hazards.md R194). -/
theorem exec_outside_idle {s : State} (i : Instr) (hc : portOf i = .cmd) (hi : s.phase ≠ .idle) :
    exec i s = .fault .hostOverlap := by
  cases i <;> simp [portOf] at hc <;> simp only [exec] <;>
    first
      | (unfold execOwReset; exact whenIdle_busy hi _)
      | (unfold execOwWriteBit; exact whenIdle_busy hi _)
      | (unfold execOwReadBit; exact whenIdle_busy hi _)
      | (unfold execOwWriteByte; exact whenIdle_busy hi _)
      | (unfold execOwReadByte; exact whenIdle_busy hi _)
      | (unfold execEnumNext; exact whenIdle_busy hi _)
      | (unfold execSearchReset; exact whenIdle_busy hi _)
      | (unfold execIllegal; exact whenIdle_busy hi _)

/-- How a host command that gives a next state got there: at once, or through a run of rows. -/
theorem exec_command_cases {i : Instr} {s t : State} (hc : portOf i = .cmd) (hr : exec i s = .next t) :
    s.phase = .idle ∧
      ((∃ p, startPrim p s = .next t ∧ (p = .reset ∨ s.busSync = true)) ∨
        (i = .enumNext ∧ s.exh = true ∧ t = complete .exhausted false false false (clearSearch s)) ∨
        (i = .enumNext ∧ s.exh = false ∧ runToIdle passRows (enterPhase .eReset s) = .next t) ∨
        (i = .searchReset ∧ t = complete .ok false false false (clearSearch s)) ∨
        (∃ c, i = .illegal c ∧ t = complete .illegalCmd false false false s)) := by
  by_cases hi : s.phase = .idle
  · refine ⟨hi, ?_⟩
    cases i <;> simp [portOf] at hc <;>
      simp only [exec, execOwReset, execOwWriteBit, execOwReadBit, execOwWriteByte, execOwReadByte, whenIdle_idle hi,
        whenSync] at hr
    case owReset => exact .inl ⟨_, hr, .inl rfl⟩
    case enumNext =>
      simp only [execEnumNext, whenIdle_idle hi] at hr
      by_cases hx : s.exh = true
      · rw [if_pos hx] at hr; cases hr; exact .inr (.inl ⟨rfl, hx, rfl⟩)
      · rw [if_neg hx] at hr; exact .inr (.inr (.inl ⟨rfl, by simpa using hx, hr⟩))
    case searchReset =>
      simp only [execSearchReset, whenIdle_idle hi] at hr
      cases hr; exact .inr (.inr (.inr (.inl ⟨rfl, rfl⟩)))
    case illegal c =>
      simp only [execIllegal, whenIdle_idle hi] at hr
      cases hr; exact .inr (.inr (.inr (.inr ⟨c, rfl, rfl⟩)))
    all_goals
      split at hr
      · exact .inl ⟨_, hr, .inr (by assumption)⟩
      · cases hr
  · rw [exec_outside_idle i hc hi] at hr; cases hr

end Sys2Proof.Machine
end

