-- ==== Sys2Proof/Laws/PerInstr.lean ====
section
/-! SUPPORT. Statements about every instruction, one lemma per constructor. -/

namespace Sys2Proof.Laws

/-- `EncodeLength`: how many bytes each instruction has (spec/30_encoding.md R80, R90, R94): two for the strings that
carry a parameter byte, one for everything else. -/
def EncodeLength.Statement (i : Instr) : Prop :=
  ∀ P : Params, (encode P i).length =
    (match i with
      | .brSetReadPointer _ | .br1wSingleBit _ | .br1wWriteByte _ => 2
      | .owReset | .owWriteBit | .owReadBit | .owWriteByte | .owReadByte => 1
      | .enumNext | .searchReset | .illegal _ | .br1wReset | .br1wReadByte | .busSearchRom => 1)

theorem EncodeLength.owReset : EncodeLength.Statement .owReset := fun _ => rfl
theorem EncodeLength.owWriteBit : EncodeLength.Statement .owWriteBit := fun _ => rfl
theorem EncodeLength.owReadBit : EncodeLength.Statement .owReadBit := fun _ => rfl
theorem EncodeLength.owWriteByte : EncodeLength.Statement .owWriteByte := fun _ => rfl
theorem EncodeLength.owReadByte : EncodeLength.Statement .owReadByte := fun _ => rfl
theorem EncodeLength.enumNext : EncodeLength.Statement .enumNext := fun _ => rfl
theorem EncodeLength.searchReset : EncodeLength.Statement .searchReset := fun _ => rfl
theorem EncodeLength.illegal (c : Byte) : EncodeLength.Statement (.illegal c) := fun _ => rfl
theorem EncodeLength.brSetReadPointer (p : Pointer) : EncodeLength.Statement (.brSetReadPointer p) := fun _ => rfl
theorem EncodeLength.br1wReset : EncodeLength.Statement .br1wReset := fun _ => rfl
theorem EncodeLength.br1wSingleBit (b : Bool) : EncodeLength.Statement (.br1wSingleBit b) := fun _ => rfl
theorem EncodeLength.br1wWriteByte (v : Byte) : EncodeLength.Statement (.br1wWriteByte v) := fun _ => rfl
theorem EncodeLength.br1wReadByte : EncodeLength.Statement .br1wReadByte := fun _ => rfl
theorem EncodeLength.busSearchRom : EncodeLength.Statement .busSearchRom := fun _ => rfl

end Sys2Proof.Laws
end

