-- ==== Sys2Proof/Tests/Slice0.lean ====
section
/-! SUPPORT. Tests on fixed values, each expected result taken from spec/ (the vector's name stands in the comment), and
for every statement with hypotheses a state that meets them. -/

namespace Sys2Proof.Tests

open Sys2Proof Sys2Proof.Machine

/-! ### Helpers -/

/-- One field of the next state; `none` for a stop. -/
def look {α : Type} (o : Host.Outcome State Fault Refusal) (f : State → α) : Option α :=
  match o with
  | .next t => some (f t)
  | .fault _ | .refused _ => none

/-- The fault of a stop. -/
def stop (o : Host.Outcome State Fault Refusal) : Option Fault :=
  match o with
  | .fault f => some f
  | .next _ | .refused _ => none

/-- After reset, synchronised, at level T with these replies and timer draws. -/
def wire (replies : List Reply) (timers : List Bool) : State :=
  { State.reset with busSync := true, env := { Env.initial with replies := replies, timers := timers } }

/-- After reset, synchronised, at level P with these answers. -/
def prims (answers : List Answer) : State :=
  { State.reset with busSync := true, env := { Env.initial with level := .primitives, answers := answers } }

/-- A completed primitive that reports everything as 1, `x` as its byte. -/
def good (x : Byte) : Answer := { error := none, value := { presence := true, short := true, bit := true, byte := x } }

/-- A completed primitive with bit `b`, presence `p` and short `s`. -/
def saying (p s b : Bool) : Answer := { error := none, value := { presence := p, short := s, bit := b, byte := 0x00#8 } }

/-- A failed primitive. -/
def bad (e : BusError) : Answer := { error := some e, value := (good 0x00#8).value }

/-- After reset, on the reference bus with devices `S` and the faults `overlay`. -/
def onBus (S : List Ident) (overlay : List (Option BusError)) : State :=
  { State.reset with env := { Env.initial with
      level := .reference, bus := { devices := S, live := [], mode := .offPattern, overlay := overlay } } }

/-- The devices of S2 in 95_test_vectors.md. -/
def devA : Ident := ofBytes 0x28#8 0x01#8 0x02#8 0x03#8 0x04#8 0x05#8 0x06#8 0x00#8
def devB : Ident := ofBytes 0x28#8 0x01#8 0x02#8 0x03#8 0x04#8 0x05#8 0x06#8 0x80#8

/-- The state S2 call 1 leaves. -/
def afterA : State :=
  { onBus [devA, devB] [] with
    ld := 64#7, rom := devA, romWritten := BitVec.allOnes 64, idOut := devA, idWritten := true, lastZero := 64#7
    n := 65#7, busSync := true, latPpd := true, result := 0x30#8 }

/-- The row E_RD_CMP of a round at position `n`: the first bit read, the second still to come as `cmp`. -/
def round (idB cmp : Bool) (n ld : BitVec 7) (old : Bool) : State :=
  { prims [saying true false cmp] with
    phase := .eRdCmp, idBit := idB, n := n, ld := ld, lfd := 9#4, lastZero := 100#7, latPpd := true
    rom := if old then BitVec.allOnes 64 else 0#64, romWritten := BitVec.allOnes 64 }

/-- The row E_FINISH with this identifier in ROM. -/
def finishing (d : Ident) (lz : BitVec 7) : State :=
  { prims [] with phase := .eFinish, n := 65#7, lastZero := lz, rom := d, romWritten := BitVec.allOnes 64, latPpd := true }

/-! ### Well-formedness and encoding -/

/-- The ill-formed instructions are the illegal commands that carry a command byte. -/
theorem test_wf_refuses_command_bytes_as_illegal :
    ∀ c ∈ [0x01#8, 0x02#8, 0x03#8, 0x04#8, 0x05#8, 0x10#8, 0x11#8], (Instr.illegal c).wf = false := by decide
theorem test_wf_takes_illegal_bytes : ∀ c ∈ [0x00#8, 0x06#8, 0x0F#8, 0x12#8, 0x90#8, 0xFF#8], (Instr.illegal c).wf = true := by
  decide
theorem test_wf_refuses_two_equal_bridge_commands : ({ Params.default with bc1wrb := 0xB4#8 } : Params).wf = false := by decide
theorem test_wf_refuses_two_equal_pointers : ({ Params.default with ptrData := 0xF0#8 } : Params).wf = false := by decide
theorem test_wf_takes_the_defaults : Params.default.wf = true := by decide

/-- 30_encoding.md R81 and R83, bit by bit. -/
theorem test_decode_owReset : decode Params.default .cmd [0b00000001#8] = some .owReset := by decide
theorem test_decode_owWriteBit : decode Params.default .cmd [0b00000010#8] = some .owWriteBit := by decide
theorem test_decode_owReadBit : decode Params.default .cmd [0b00000011#8] = some .owReadBit := by decide
theorem test_decode_owWriteByte : decode Params.default .cmd [0b00000100#8] = some .owWriteByte := by decide
theorem test_decode_owReadByte : decode Params.default .cmd [0b00000101#8] = some .owReadByte := by decide
theorem test_decode_enumNext : decode Params.default .cmd [0b00010000#8] = some .enumNext := by decide
theorem test_decode_searchReset : decode Params.default .cmd [0b00010001#8] = some .searchReset := by decide
theorem test_decode_illegal : decode Params.default .cmd [0b10010000#8] = some (.illegal 0x90#8) := by decide
/-- R90 and R93: the strings of 95_test_vectors.md T1, T4, T6, T8, T9. -/
theorem test_decode_brSetReadPointer :
    decode Params.default .bridge [0b11100001#8, 0b11110000#8] = some (.brSetReadPointer .status) ∧
    decode Params.default .bridge [0b11100001#8, 0b11100001#8] = some (.brSetReadPointer .data) := by decide
theorem test_decode_br1wReset : decode Params.default .bridge [0b10110100#8] = some .br1wReset := by decide
theorem test_decode_br1wSingleBit :
    decode Params.default .bridge [0b10000111#8, 0b10000000#8] = some (.br1wSingleBit true) ∧
    decode Params.default .bridge [0b10000111#8, 0b00000000#8] = some (.br1wSingleBit false) := by decide
theorem test_decode_br1wWriteByte :
    decode Params.default .bridge [0b10100101#8, 0b11001100#8] = some (.br1wWriteByte 0xCC#8) := by decide
theorem test_decode_br1wReadByte : decode Params.default .bridge [0b10010110#8] = some .br1wReadByte := by decide
/-- R94. -/
theorem test_decode_busSearchRom : decode Params.default .bus [0b11110000#8] = some .busSearchRom := by decide
/-- What is sent nowhere is read nowhere: a bit byte with low bits set, a pointer code of another register, a string with
a byte too many or too few, two bytes at CMD. -/
theorem test_decode_refuses :
    decode Params.default .bridge [0x87#8, 0x81#8] = none ∧ decode Params.default .bridge [0xE1#8, 0xC3#8] = none ∧
    decode Params.default .bridge [0xB4#8, 0x00#8] = none ∧ decode Params.default .bridge [0xA5#8] = none ∧
    decode Params.default .bus [0x33#8] = none ∧ decode Params.default .cmd [0x01#8, 0x00#8] = none ∧
    decode Params.default .cmd [] = none := by decide
theorem test_table_words :
    decodeTableWord 8 0x10 = some .enumNext ∧ decodeTableWord 8 0x05 = some .owReadByte ∧
    decodeTableWord 8 0xFF = some (.illegal 0xFF#8) ∧ decodeTableWord 16 0xF0E1 = none := by decide
/-- The word placed is the command the very next step runs. -/
theorem test_withFetchWord_runs_it :
    look (step (State.reset.withFetchWord 8 0x11)) (·.result) = some 0x00#8 ∧
    look (step (State.reset.withFetchWord 8 0x06)) (·.result) = some 0x08#8 := by decide

/-! ### The host port: vectors R-1 to R-6 of 95_test_vectors.md -/

/-- R-1. -/
theorem test_reset_views :
    peek 0x02#8 State.reset = some 0x0F#8 ∧ peek 0x04#8 State.reset = some 0x00#8 ∧
    peek 0x05#8 State.reset = some 0x00#8 ∧ peek 0x06#8 State.reset = some 0x00#8 ∧
    peek 0x01#8 State.reset = some 0x00#8 := by decide
/-- R-2, R-3. -/
theorem test_unwritten_reads :
    stop (step { State.reset with host := [.read 0x08#8] }) = some .unwrittenRead ∧
    stop (step { State.reset with host := [.read 0x03#8] }) = some .unwrittenRead := by decide
/-- R-4. -/
theorem test_reserved_reads_are_zero :
    look (step { State.reset with host := [.read 0x07#8] }) (·.seen) = some [(0x07#8, 0x00#8)] ∧
    look (step { State.reset with host := [.read 0x80#8] }) (·.seen) = some [(0x80#8, 0x00#8)] ∧
    look (step { State.reset with host := [.read 0x00#8] }) (·.seen) = some [(0x00#8, 0x00#8)] := by decide
/-- R-5. -/
theorem test_write_to_result_ignored :
    look (step { State.reset with host := [.write 0x02#8 0xFF#8] }) (·.result) = some 0x0F#8 := by decide
/-- R-6: the second host's access arrives three rows into the pass. -/
theorem test_second_host_overlaps :
    stop (exec .enumNext { onBus [devA] [] with arrivals := [(3, .access (.write 0x00#8 0x10#8))] })
      = some .hostOverlap := by decide +kernel
/-- R-7, R-8: the views after S1 call 1 and S2 call 1. -/
theorem test_status_views :
    peek 0x06#8 { State.reset with exh := true, busSync := true } = some 0x03#8 ∧
    peek 0x04#8 afterA = some 0x40#8 ∧ peek 0x06#8 afterA = some 0x02#8 ∧ peek 0x0F#8 afterA = some 0x00#8 ∧
    peek 0x08#8 afterA = some 0x28#8 ∧ peek 0x0E#8 afterA = some 0x06#8 := by decide

/-! ### Level T: vectors T1 to T15 -/

/-- T1, T3: the flags come from the byte that ended the wait. -/
theorem test_reset_primitive :
    primOutcome .reset (wire [.ok 0x00#8, .ok 0x00#8, .ok 0x01#8, .ok 0x02#8] [false])
      = .ok { presence := true, short := false, bit := false, byte := 0x00#8 } ∧
    primOutcome .reset (wire [.ok 0x00#8, .ok 0x00#8, .ok 0x06#8] [])
      = .ok { presence := true, short := true, bit := false, byte := 0x00#8 } := by decide +kernel
/-- T4, T5. -/
theorem test_read_bit_primitive :
    primOutcome .readBit (wire [.ok 0x00#8, .ok 0x00#8, .ok 0x20#8] [])
      = .ok { presence := false, short := false, bit := true, byte := 0x00#8 } ∧
    primOutcome .readBit (wire [.ok 0x00#8, .ok 0x00#8, .ok 0x21#8, .ok 0x00#8] [false])
      = .ok { presence := false, short := false, bit := false, byte := 0x00#8 } := by decide +kernel
/-- T8: the calls made, with their bytes. -/
theorem test_write_byte_calls :
    callsOf (afterPrim (.writeByte 0xF0#8) (wire [.ok 0x00#8, .ok 0x00#8, .ok 0x00#8] [])).env.log
      = [.sendRecv [0xE1#8, 0xF0#8], .send [0xA5#8, 0xF0#8], .sendRecv [0xE1#8, 0xF0#8]] := by decide +kernel
/-- T9: six calls and the byte of the register read. -/
theorem test_read_byte_primitive :
    primOutcome .readByte (wire [.ok 0x00#8, .ok 0x00#8, .ok 0x01#8, .ok 0x00#8, .ok 0x00#8, .ok 0x5A#8] [false])
      = .ok { presence := false, short := false, bit := false, byte := 0x5A#8 } := by decide +kernel
/-- T10, T11: the error, and nothing sent after it. -/
theorem test_transport_errors :
    primOutcome (.writeByte 0x33#8) (wire [.fail] []) = .err .transportError ∧
    callsOf (afterPrim (.writeByte 0x33#8) (wire [.fail] [])).env.log = [.sendRecv [0xE1#8, 0xF0#8]] ∧
    callsOf (afterPrim (.writeByte 0x33#8) (wire [.ok 0x00#8, .fail] [])).env.log
      = [.sendRecv [0xE1#8, 0xF0#8], .send [0xA5#8, 0x33#8]] := by decide +kernel
/-- T13, T15. -/
theorem test_timeouts :
    primOutcome .readBit (wire [.ok 0x01#8, .ok 0x01#8] [false, true]) = .err .timeout ∧
    primOutcome .reset (wire [.ok 0x00#8, .ok 0x00#8, .ok 0xFF#8] [true]) = .err .timeout := by decide +kernel

/-! ### The bus commands: vectors H1 to H14 -/

/-- H1, H3, H4. -/
theorem test_owReset :
    look (exec .owReset { wire [.ok 0x00#8, .ok 0x00#8, .ok 0x02#8] [] with busSync := false })
      (fun t => (t.result, t.busSync)) = some (0x20#8, true) ∧
    look (exec .owReset (wire [.ok 0x00#8, .ok 0x00#8, .ok 0x06#8] [])) (·.result) = some 0x60#8 ∧
    look (exec .owReset (wire [.ok 0x01#8] [true])) (fun t => (t.result, t.busSync)) = some (0x06#8, false) := by
  decide +kernel
/-- H14. -/
theorem test_owReset_keeps_the_search_state :
    look (exec .owReset { wire [.ok 0x00#8, .ok 0x00#8, .ok 0x02#8] [] with ld := 5#7, lfd := 5#4 })
      (fun t => (t.ld, t.lfd, t.exh)) = some (5#7, 5#4, false) := by decide +kernel
/-- H5: bit 0 of 0xFE is sent. -/
theorem test_owWriteBit_sends_bit_zero :
    look (exec .owWriteBit { wire [.ok 0x00#8, .ok 0x00#8, .ok 0x00#8] [] with arg := 0xFE#8 })
      (fun t => (callsOf t.env.log)[1]?) = some (some (.send [0x87#8, 0x00#8])) := by decide +kernel
/-- H7, and DATA in its two least significant values. -/
theorem test_owReadBit :
    look (exec .owReadBit { wire [.ok 0x00#8, .ok 0x00#8, .ok 0x20#8] [] with data := 0x5A#8 })
      (fun t => (t.result, t.data, t.dataWritten)) = some (0x00#8, 0x01#8, true) := by decide +kernel
/-- H13. -/
theorem test_owReadBit_hazard : stop (exec .owReadBit State.reset) = some .hazardBusUndefined := by decide
/-- H9. -/
theorem test_owWriteByte :
    look (exec .owWriteByte { wire [.ok 0x00#8, .ok 0x00#8, .ok 0x00#8] [] with arg := 0xCC#8 })
      (fun t => (t.result, (callsOf t.env.log)[1]?)) = some (0x00#8, some (.send [0xA5#8, 0xCC#8])) := by decide +kernel
/-- H12. -/
theorem test_owWriteByte_hazard : stop (exec .owWriteByte State.reset) = some .hazardBusUndefined := by decide
/-- H10. -/
theorem test_owReadByte :
    look (exec .owReadByte { wire [.ok 0x00#8, .ok 0x00#8, .ok 0x00#8, .ok 0x00#8, .ok 0x5A#8] [] with data := 0x01#8 })
      (fun t => (t.result, t.data)) = some (0x00#8, 0x5A#8) := by decide +kernel
/-- H11. -/
theorem test_owReadByte_fails :
    look (exec .owReadByte { wire [.ok 0x00#8, .ok 0x00#8, .ok 0x00#8, .ok 0x00#8, .fail] [] with data := 0x01#8 })
      (fun t => (t.result, t.data, t.busSync)) = some (0x07#8, 0x01#8, false) := by decide +kernel
/-- R83: RESULT and nothing else. -/
theorem test_illegal : exec (.illegal 0x90#8) afterA = .next { afterA with result := 0x08#8 } := rfl
/-- S13. -/
theorem test_searchReset :
    look (exec .searchReset { afterA with ld := 0#7, exh := true }) (fun t => (t.result, t.exh, t.rom == devA))
      = some (0x00#8, false, true) := by decide

/-! ### What the controller sends -/

theorem test_brSetReadPointer :
    look (exec (.brSetReadPointer .status) (wire [.ok 0x18#8] [])) (fun t => (t.env.reply, t.env.log))
      = some (.ok 0x18#8, [.call (.sendRecv [0xE1#8, 0xF0#8])]) := by decide
theorem test_br1wReset : look (exec .br1wReset (wire [.fail] [])) (fun t => (t.env.reply, t.env.log))
    = some (.fail, [.call (.send [0xB4#8])]) := by decide
theorem test_br1wSingleBit : look (exec (.br1wSingleBit true) (wire [.ok 0x00#8] [])) (·.env.log)
    = some [.call (.send [0x87#8, 0x80#8])] := by decide
theorem test_br1wWriteByte : look (exec (.br1wWriteByte 0x5A#8) (wire [.ok 0x00#8] [])) (·.env.log)
    = some [.call (.send [0xA5#8, 0x5A#8])] := by decide
theorem test_br1wReadByte : look (exec .br1wReadByte (wire [.ok 0x00#8] [])) (·.env.log)
    = some [.call (.send [0x96#8])] := by decide
/-- R133: after the search command the round begins at position 1. -/
theorem test_busSearchRom :
    look (exec .busSearchRom { prims [good 0x00#8] with phase := .eSearch, n := 9#7, lastZero := 9#7 })
      (fun t => (t.n, t.lastZero, t.phase, primsOf t.env.log))
      = some (1#7, 0#7, .eRdId, [.writeByte 0xF0#8]) := by decide

/-! ### One round: the direction table, vectors V1 to V12 (old last_zero 100, old LFD 9) -/

/-- V1, V2, V12. -/
theorem test_direction_forced :
    look (step (round false true 5#7 0#7 true)) (fun t => (t.dir, t.lastZero, t.lfd)) = some (false, 100#7, 9#4) ∧
    look (step (round true false 5#7 0#7 false)) (fun t => (t.dir, t.lastZero, t.lfd)) = some (true, 100#7, 9#4) ∧
    look (step (round false true 2#7 0#7 true)) (fun t => (t.dir, t.lastZero, t.lfd)) = some (false, 100#7, 9#4) := by
  decide
/-- V3. -/
theorem test_direction_no_response :
    look (step (round true true 5#7 9#7 true)) (fun t => (t.result, t.ld, t.lfd, t.phase))
      = some (0x24#8, 0#7, 0#4, .idle) := by decide
/-- V4, V5. -/
theorem test_direction_retraces :
    look (step (round false false 3#7 7#7 false)) (fun t => (t.dir, t.lastZero, t.lfd)) = some (false, 3#7, 3#4) ∧
    look (step (round false false 3#7 7#7 true)) (fun t => (t.dir, t.lastZero, t.lfd)) = some (true, 100#7, 9#4) := by
  decide
/-- V6, V9, V11. -/
theorem test_direction_at_the_last_discrepancy :
    look (step (round false false 7#7 7#7 false)) (fun t => (t.dir, t.lastZero, t.lfd)) = some (true, 100#7, 9#4) ∧
    look (step (round false false 64#7 64#7 false)) (fun t => (t.dir, t.lastZero, t.lfd)) = some (true, 100#7, 9#4) ∧
    look (step (round false false 1#7 1#7 false)) (fun t => (t.dir, t.lastZero, t.lfd)) = some (true, 100#7, 9#4) := by
  decide
/-- V7, V8, V10. -/
theorem test_direction_past_it :
    look (step (round false false 9#7 7#7 true)) (fun t => (t.dir, t.lastZero, t.lfd)) = some (false, 9#7, 9#4) ∧
    look (step (round false false 8#7 0#7 true)) (fun t => (t.dir, t.lastZero, t.lfd)) = some (false, 8#7, 8#4) ∧
    look (step (round false false 1#7 0#7 true)) (fun t => (t.dir, t.lastZero, t.lfd)) = some (false, 1#7, 1#4) := by
  decide
/-- R135: the choice goes into ROM at its own place. -/
theorem test_direction_writes_rom :
    look (step (round false false 64#7 64#7 false)) (·.rom) = some 0x8000000000000000#64 ∧
    look (step (round false true 9#7 0#7 true)) (·.rom) = some 0xFFFFFFFFFFFFFEFF#64 := by decide

/-! ### `ENUM_NEXT`: scenarios of 95_test_vectors.md -/

/-- S1 call 1, with its 194 primitives. -/
theorem test_enumNext_one_device :
    look (exec .enumNext (onBus [ofBytes 0x28#8 0x11#8 0x22#8 0x33#8 0x44#8 0x55#8 0x66#8 0x77#8] []))
      (fun t => (t.result, t.idOut, t.exh, t.ld, (primsOf t.env.log).length))
      = some (0x30#8, 0x7766554433221128#64, true, 0#7, 194) := by decide +kernel
/-- S2 call 2. -/
theorem test_enumNext_continues :
    look (exec .enumNext afterA) (fun t => (t.result, t.idOut == devB, t.exh, t.ld, t.lfd))
      = some (0x30#8, true, true, 0#7, 0#4) := by decide +kernel
/-- S8 call 1: primitive 50 times out. -/
theorem test_enumNext_times_out :
    look (exec .enumNext { afterA with env.bus.overlay := List.replicate 49 none ++ [some .timeout] })
      (fun t => (t.result, t.idOut == devA, t.ld, t.busSync, (primsOf t.env.log).length))
      = some (0x26#8, true, 0#7, false, 50) := by decide +kernel
/-- S3 call 2 and S10 call 3: retracing through a 0 and through a 1. -/
theorem test_enumNext_retraces :
    look (exec .enumNext { onBus [ofBytes 0x28#8 0xAA#8 0#8 0#8 0#8 0#8 0#8 1#8, ofBytes 0x10#8 1#8 0#8 0#8 0#8 0#8 0#8 2#8,
        ofBytes 0x22#8 5#8 0#8 0#8 0#8 0#8 0#8 3#8] [] with
        ld := 4#7, lfd := 4#4, rom := ofBytes 0x10#8 1#8 0#8 0#8 0#8 0#8 0#8 2#8, romWritten := BitVec.allOnes 64 })
      (fun t => (t.result, t.idOut, t.ld, t.lfd, t.exh)) = some (0x30#8, 0x010000000000AA28#64, 2#7, 2#4, false) ∧
    look (exec .enumNext { onBus [ofBytes 1#8 0#8 0#8 0#8 0#8 0#8 0#8 0#8, ofBytes 3#8 0#8 0#8 0#8 0#8 0#8 0#8 0#8,
        ofBytes 3#8 2#8 0#8 0#8 0#8 0#8 0#8 0#8] [] with
        ld := 10#7, lfd := 2#4, rom := ofBytes 3#8 0#8 0#8 0#8 0#8 0#8 0#8 0#8, romWritten := BitVec.allOnes 64 })
      (fun t => (t.result, t.idOut, t.ld, t.lfd, t.exh)) = some (0x30#8, 0x203#64, 0#7, 2#4, true) := by decide +kernel
/-- S4, S5, S7, S12. -/
theorem test_enumNext_not_found :
    look (exec .enumNext (onBus [] [])) (·.result) = some 0x02#8 ∧
    look (exec .enumNext (prims [saying true false false, good 0x00#8, saying true false true, saying true false true]))
      (fun t => (t.result, (primsOf t.env.log).length)) = some (0x24#8, 4) ∧
    look (exec .enumNext (prims [saying false true false])) (fun t => (t.result, t.busSync)) = some (0x43#8, true) ∧
    look (exec .enumNext (prims [saying true true false])) (·.result) = some 0x63#8 ∧
    look (exec .enumNext (prims [bad .timeout])) (·.result) = some 0x06#8 ∧
    look (exec .enumNext (prims [saying true false false, bad .transportError])) (·.result) = some 0x27#8 := by
  decide +kernel
/-- S6 call 1, and S1 call 2. -/
theorem test_enumNext_zero_family_and_exhausted :
    look (exec .enumNext (onBus [ofBytes 0#8 1#8 2#8 3#8 4#8 5#8 6#8 7#8, ofBytes 1#8 1#8 2#8 3#8 4#8 5#8 6#8 7#8] []))
      (fun t => (t.result, t.ld, t.idWritten)) = some (0x25#8, 0#7, false) ∧
    look (exec .enumNext { afterA with exh := true, ld := 0#7 }) (fun t => (t.result, t.exh, t.env == afterA.env))
      = some (0x01#8, false, true) := by decide +kernel
/-- The loop of R139 ends as the rows do, on S2 call 2. -/
theorem test_enumRule_agrees :
    look (enumRule afterA) (fun t => (t.result, t.idOut, t.exh, t.ld, t.lastZero, t.lfd))
      = look (exec .enumNext afterA) (fun t => (t.result, t.idOut, t.exh, t.ld, t.lastZero, t.lfd)) := by decide +kernel

/-! ### Assembler, search order, instances -/

/-- P2 line 2 and an assembler error of R88. -/
theorem test_assemble :
    assemble [.owWriteByte 0xCC, .rd (.name .data)] = some [.write 0x01#8 0xCC#8, .write 0x00#8 0x04#8, .read 0x03#8] ∧
    assemble [.wr (.raw 0x80#8) 256] = none ∧ assemble [.owWriteBit 2] = none := by decide
/-- O2 and O5. -/
theorem test_search_order :
    precedes (ofBytes 0x10#8 1#8 2#8 3#8 4#8 5#8 6#8 7#8) (ofBytes 0x28#8 1#8 2#8 3#8 4#8 5#8 6#8 7#8) ∧
    precedes devA devB := by
  constructor
  · exact ⟨3, by decide, by unfold agreeBelow; decide, by decide, by decide⟩
  · exact ⟨63, by decide, by unfold agreeBelow; decide, by decide, by decide⟩
/-- R40. -/
theorem test_instances :
    (match stepInstance 1 [State.reset, { State.reset with host := [.write 0x01#8 0x77#8] }] with
      | .next ms => ms.map (·.arg)
      | _ => []) = [0x00#8, 0x77#8] := by decide

/-! ### Witnesses: for every statement with hypotheses, states and operands that meet them, clause by clause -/

theorem idle_of (s : State) (h : (isIdle s.phase && s.arrivals.isEmpty) = true) : undisturbed s := by
  simp only [Bool.and_eq_true, isIdle_eq_true, List.isEmpty_iff] at h
  exact h

theorem witness_EveryInstructionReadsBack :
    Params.default.wf = true ∧ (Instr.illegal 0x90#8).wf = true ∧ (Instr.brSetReadPointer .data).wf = true := by decide
theorem witness_EveryReadingEncodesBack :
    decode Params.default .bridge [0x87#8, 0x00#8] = some (.br1wSingleBit false) ∧
    decode Params.default .cmd [0xFF#8] = some (.illegal 0xFF#8) ∧
    decode Params.default .bus [0xF0#8] = some .busSearchRom := by decide

/-- With `host` these accesses: every clause's form of them is met below. -/
def asks (x : HostAccess) (s : State) : State := { s with host := [x, .read 0x02#8] }

theorem witness_StepRunsTheCommandWritten :
    undisturbed (asks (.write 0x00#8 0x10#8) afterA) ∧
    (asks (.write 0x00#8 0x10#8) afterA).host = .write 0x00#8 0x10#8 :: [.read 0x02#8] := ⟨idle_of _ rfl, rfl⟩
/-- Read clauses at 0x00, 0x07, 0x10, 0xFF; unwritten at 0x03, 0x08, 0x0F. -/
theorem witness_HostAccessSideEffects :
    (∀ x : HostAccess, undisturbed (asks x State.reset) ∧ (asks x State.reset).host = x :: [.read 0x02#8]) ∧
    (∀ a ∈ [0x02#8, 0x07#8, 0x08#8, 0xFF#8], a ≠ 0x00#8 ∧ a ≠ 0x01#8) ∧
    (∀ a ∈ [0x00#8, 0x07#8, 0x10#8, 0xFF#8], a = 0x00#8 ∨ a = 0x07#8 ∨ 0x10#8 ≤ a) ∧
    (∀ a ∈ [0x03#8, 0x08#8, 0x0F#8], (a = 0x03#8 ∧ State.reset.dataWritten = false) ∨
      (0x08#8 ≤ a ∧ a ≤ 0x0F#8 ∧ State.reset.idWritten = false)) :=
  ⟨fun _ => ⟨⟨rfl, rfl⟩, rfl⟩, by decide, by decide, by decide⟩
theorem witness_HostReadsFollowRegisterMap :
    (∀ a : Byte, undisturbed (asks (.read a) { afterA with dataWritten := true }) ∧
      (asks (.read a) { afterA with dataWritten := true }).host = .read a :: [.read 0x02#8] ∧
      (asks (.read a) { afterA with dataWritten := true }).dataWritten = true ∧
      (asks (.read a) { afterA with dataWritten := true }).idWritten = true) ∧
    (0x08#8 = BitVec.ofNat 8 (8 + 0) ∧ 0x0F#8 = BitVec.ofNat 8 (8 + 7)) :=
  ⟨fun _ => ⟨⟨rfl, rfl⟩, rfl, rfl, rfl⟩, by decide⟩

/-- In the middle of a pass, with this arriving now. -/
def midPass (a : Arrival) : State :=
  { prims [] with phase := .eRdId, n := 5#7, ld := 9#7, data := 0x5A#8, dataWritten := true, arrivals := [(0, a)] }

theorem witness_OverlappingAccessFaults :
    (midPass (.access (.read 0x02#8))).phase ≠ .idle ∧
    (midPass (.access (.read 0x02#8))).arrivals = (0, .access (.read 0x02#8)) :: [] ∧
    portOf .enumNext = .cmd ∧ afterA.arrivals = [] := by decide
theorem witness_OverlapStopsRunningCommand :
    ({ afterA with arrivals := [(0, .access (.read 0x02#8))] } : State).phase = .idle ∧
    ({ afterA with arrivals := [(0, .access (.read 0x02#8))] } : State).arrivals = (0, .access (.read 0x02#8)) :: [] ∧
    afterA.busSync = true ∧ afterA.exh = false := by decide
theorem witness_ResetLeavesTheStatedValues :
    (midPass .resetInput).arrivals = (0, .resetInput) :: [] ∧
    step (midPass .resetInput) = .next (resetController { midPass .resetInput with arrivals := [] }) := ⟨rfl, rfl⟩

/-- A level-P state whose next primitive completes, and one whose next primitive fails: the hypotheses of the five bus
commands and of the rows, for any primitive. -/
theorem witness_bus_commands (p : Prim) :
    (undisturbed (prims [good 0x5A#8]) ∧ (prims [good 0x5A#8]).busSync = true ∧
      (primRun (prims [good 0x5A#8]).params p (prims [good 0x5A#8]).env).1 = .ok (reported p (good 0x5A#8).value)) ∧
    (undisturbed (prims [bad .timeout]) ∧ (prims [bad .timeout]).busSync = true ∧
      (primRun (prims [bad .timeout]).params p (prims [bad .timeout]).env).1 = .err .timeout) ∧
    (undisturbed State.reset ∧ State.reset.busSync = false) := by
  refine ⟨⟨⟨rfl, rfl⟩, rfl, ?_⟩, ⟨⟨rfl, rfl⟩, rfl, ?_⟩, ⟨rfl, rfl⟩, rfl⟩ <;> cases p <;> rfl
theorem witness_OwResetReportsTheReset :
    undisturbed State.reset ∧ (primRun (prims [saying false true false]).params .reset (prims [saying false true false]).env).1
      = .ok { presence := false, short := true, bit := false, byte := 0x00#8 } := ⟨⟨rfl, rfl⟩, rfl⟩
theorem witness_IllegalCommandWritesOnlyResult : afterA.phase = .idle := rfl

theorem witness_BusHazardIsRaisedAndLifted :
    undisturbed (prims [bad .transportError]) ∧
    look (exec .owReset (prims [bad .transportError])) (fun t => t.result &&& 0x0F#8) = some 0x07#8 ∧
    look (exec .owReset (prims [good 0x00#8])) (fun t => t.result &&& 0x0F#8) = some 0x00#8 ∧
    look (exec .owWriteBit (prims [bad .timeout])) (fun t => t.result &&& 0x0F#8) = some 0x06#8 ∧
    look (exec .enumNext (prims [saying true true false])) (fun t => t.result &&& 0x0F#8) = some 0x03#8 ∧
    (prims [saying true true false]).exh = false ∧
    (primRun (prims [saying true true false]).params .reset (prims [saying true true false]).env).1
      = .ok { presence := true, short := true, bit := false, byte := 0x00#8 } := by
  refine ⟨⟨rfl, rfl⟩, ?_, ?_, ?_, ?_, rfl, rfl⟩ <;> decide +kernel

theorem witness_BusyWaitEndsAsItsPollsSay :
    (busyWait Params.default 3 (wire [.ok 0x01#8, .ok 0x20#8] [false]).env).1 = .ok 0x20#8 ∧
    (busyWait Params.default 3 (wire [.ok 0x01#8, .fail] [false]).env).1 = .err .transportError ∧
    (busyWait Params.default 0 (wire [.ok 0x01#8] []).env).1 = .err .timeout ∧
    (busyWait Params.default 3 (wire [.ok 0x01#8] [true]).env).1 = .err .timeout ∧
    (wire [.ok 0xFE#8] []).env.replies = .ok 0xFE#8 :: [] ∧ (0xFE#8 : Byte).getLsbD 0 = false ∧
    (wire [.fail] []).env.replies = .fail :: [] ∧ (wire [.ok 0x01#8] [true]).env.replies = .ok 0x01#8 :: [] ∧
    (0x01#8 : Byte).getLsbD 0 = true ∧ (wire [.ok 0x01#8] [true]).env.timers = true :: [] ∧
    (wire [.ok 0x01#8] [false]).env.timers = false :: [] := by decide +kernel
theorem witness_CompletedPrimitiveMakesItsCalls :
    (wire [.ok 0#8, .ok 0#8, .ok 0#8, .ok 0#8, .ok 0x5A#8] []).env.level = .transactions ∧
    (primRun Params.default .readByte (wire [.ok 0#8, .ok 0#8, .ok 0#8, .ok 0#8, .ok 0x5A#8] []).env).1
      = .ok { presence := false, short := false, bit := false, byte := 0x5A#8 } := by decide +kernel
theorem witness_PrimitivesOnAnIdleBridge :
    (wire [.ok 0#8, .ok 0#8, .ok 0x06#8, .ok 0#8, .ok 0x5A#8] []).env.level = .transactions ∧
    (wire [.ok 0#8, .ok 0#8, .ok 0x06#8, .ok 0#8, .ok 0x5A#8] []).env.replies
      = .ok 0#8 :: .ok 0#8 :: .ok 0x06#8 :: [.ok 0#8, .ok 0x5A#8] ∧
    (0#8 : Byte).getLsbD 0 = false ∧ (0x06#8 : Byte).getLsbD 0 = false := by decide
theorem witness_EveryFailingCallEndsItsPrimitive :
    (wire [.fail] []).env.level = .transactions ∧ (wire [.fail] []).env.replies = .fail :: [] ∧
    (wire [.ok 0#8, .fail] []).env.replies = .ok 0#8 :: .fail :: [] ∧
    (wire [.ok 0#8, .ok 0#8, .ok 0xFE#8, .fail] []).env.replies = .ok 0#8 :: .ok 0#8 :: .ok 0xFE#8 :: .fail :: [] ∧
    (wire [.ok 0#8, .ok 0#8, .ok 0xFE#8, .ok 0#8, .fail] []).env.replies
      = .ok 0#8 :: .ok 0#8 :: .ok 0xFE#8 :: .ok 0#8 :: .fail :: [] ∧
    (0#8 : Byte).getLsbD 0 = false ∧ (0xFE#8 : Byte).getLsbD 0 = false := by decide
/-- The failing call is the second of three replies: two calls were made, one more reply is left. -/
theorem witness_FailedPrimitiveStopsAtOnce_fails :
    (wire [.ok 0#8, .fail, .ok 0#8] []).env.replies = [.ok 0#8] ++ .fail :: [.ok 0#8] ∧
    callsOf (primRun Params.default .readByte (wire [.ok 0#8, .fail, .ok 0#8] []).env).2.log
      = callsOf (wire [.ok 0#8, .fail, .ok 0#8] []).env.log ++ [.sendRecv [0xE1#8, 0xF0#8], .send [0x96#8]] ∧
    [Reply.ok 0#8].length < [Call.sendRecv [0xE1#8, 0xF0#8], .send [0x96#8]].length := by decide +kernel
theorem witness_FailedPrimitiveStopsAtOnce :
    (primRun Params.default .readByte (wire [.ok 0#8, .fail] []).env).1 = .err .transportError ∧
    (primRun Params.default .readByte (wire [.ok 0x01#8] [true]).env).1 = .err .timeout ∧
    (wire [] []).env.level = .transactions := by decide +kernel
theorem witness_BridgeStringsAreOneCallEach :
    (wire [.fail] []).env.replies = .fail :: [] ∧ (wire [] []).env.replies = [] ∧
    (Instr.br1wWriteByte 0xCC#8, Call.send [0xA5#8, 0xCC#8]) ∈ [(Instr.br1wReset, Call.send [0xB4#8]),
      (.br1wWriteByte 0xCC#8, .send [State.reset.params.bc1wwb, 0xCC#8])] := by decide

/-- At this phase, with one answer to come. -/
def inPhase (p : Phase) (a : Answer) : State := { prims [a] with phase := p, n := 64#7, latPpd := true }

theorem witness_ResetRowFollowsR132 :
    (∀ a : Answer, (inPhase .eReset a).phase = .eReset ∧ (inPhase .eReset a).arrivals = []) ∧
    primOutcome .reset (inPhase .eReset (bad .timeout)) = .err .timeout ∧
    primOutcome .reset (inPhase .eReset (saying false true false))
      = .ok { presence := false, short := true, bit := false, byte := 0#8 } ∧
    primOutcome .reset (inPhase .eReset (saying false false true))
      = .ok { presence := false, short := false, bit := false, byte := 0#8 } ∧
    primOutcome .reset (inPhase .eReset (saying true false false))
      = .ok { presence := true, short := false, bit := false, byte := 0#8 } :=
  ⟨fun _ => ⟨rfl, rfl⟩, rfl, rfl, rfl, rfl⟩
theorem witness_SearchRowSendsSearchCommand :
    (inPhase .eSearch (good 0#8)).phase = .eSearch ∧ (inPhase .eSearch (good 0#8)).arrivals = [] ∧
    primOutcome (.writeByte (inPhase .eSearch (good 0#8)).params.searchCmd) (inPhase .eSearch (good 0#8))
      = .ok { presence := false, short := false, bit := false, byte := 0#8 } ∧
    primOutcome (.writeByte (inPhase .eSearch (bad .timeout)).params.searchCmd) (inPhase .eSearch (bad .timeout))
      = .err .timeout := by decide
/-- Every row of the table, at its boundary positions: forced, retraced, at LD (1 and 64), past LD (1 and 64), none. -/
theorem witness_DirectionFollowsItsTable :
    (∀ (i c o : Bool) (n ld : BitVec 7), (round i c n ld o).phase = .eRdCmp ∧ (round i c n ld o).arrivals = [] ∧
      primOutcome .readBit (round i c n ld o) = .ok { presence := false, short := false, bit := c, byte := 0#8 } ∧
      (round i c n ld o).idBit = i ∧ (round i c n ld o).n = n ∧ (round i c n ld o).ld = ld) ∧
    (∀ n ∈ [1#7, 64#7], 1 ≤ n.toNat ∧ n.toNat ≤ 64) ∧
    ((round false false 1#7 2#7 true).romWritten.getLsbD 0 = true ∧
      (round false false 63#7 64#7 true).rom.getLsbD 62 = true ∧ (63#7).toNat < (64#7).toNat ∧
      (63#7).toNat < (64#7).toNat) :=
  ⟨fun _ _ _ _ _ => ⟨rfl, rfl, rfl, rfl, rfl, rfl⟩, by decide, by decide⟩
theorem witness_RoundRowsAdvance :
    (inPhase .eRdId (good 0#8)).phase = .eRdId ∧ (inPhase .eRdId (good 0#8)).arrivals = [] ∧
    primOutcome .readBit (inPhase .eRdId (good 0#8)) = .ok { presence := false, short := false, bit := true, byte := 0#8 } ∧
    (inPhase .eWrDir (good 0#8)).phase = .eWrDir ∧ (inPhase .eWrDir (good 0#8)).n.toNat = 64 ∧
    primOutcome (.writeBit false) (inPhase .eWrDir (good 0#8))
      = .ok { presence := false, short := false, bit := false, byte := 0#8 } ∧
    ({ inPhase .eWrDir (good 0#8) with n := 63#7 } : State).n.toNat < 64 := by
  refine ⟨rfl, rfl, rfl, rfl, rfl, rfl, ?_⟩; decide
theorem witness_ErrorInARoundAborts :
    ∀ p ∈ [Phase.eRdId, .eRdCmp, .eWrDir], (inPhase p (bad .timeout)).arrivals = [] ∧ (inPhase p (bad .timeout)).phase = p ∧
      primOutcome .readBit (inPhase p (bad .timeout)) = .err .timeout ∧
      primOutcome (.writeBit (inPhase p (bad .timeout)).dir) (inPhase p (bad .timeout)) = .err .timeout := by decide
/-- Both sides of each clause: DATA and ID_OUT with and without a value, at 0x03, 0x08 and 0x0F; a retrace of a bit with
and without a value; the end of a pass with the last bit of the identifier missing. -/
theorem witness_UnwrittenReadExactlyWhereNoValue :
    (undisturbed (asks (.read 0x0F#8) State.reset) ∧
      (asks (.read 0x0F#8) State.reset).host = .read 0x0F#8 :: [.read 0x02#8] ∧
      stop (step (asks (.read 0x0F#8) State.reset)) = some .unwrittenRead ∧
      stop (step (asks (.read 0x0F#8) afterA)) = none ∧ stop (step (asks (.read 0x08#8) afterA)) = none ∧
      stop (step (asks (.read 0x03#8) afterA)) = some .unwrittenRead) ∧
    (stop (step { round false false 63#7 64#7 true with romWritten := 0#64 }) = some .unwrittenRead ∧
      stop (step (round false false 63#7 64#7 true)) = none) ∧
    stop (step { finishing devA 0#7 with romWritten := 0x7FFFFFFFFFFFFFFF#64 }) = some .unwrittenRead ∧
    (inPhase .eRdId (good 0#8)).phase ≠ .idle ∧ (inPhase .eRdId (good 0#8)).arrivals = [] := by
  refine ⟨⟨⟨rfl, rfl⟩, rfl, ?_, ?_, ?_, ?_⟩, ⟨?_, ?_⟩, ?_, ?_, rfl⟩ <;> decide
theorem witness_EndOfPassFollowsR137 :
    (finishing devA 64#7).phase = .eFinish ∧ (finishing devA 64#7).arrivals = [] ∧
    (finishing devA 64#7).romWritten = BitVec.allOnes 64 ∧ (finishing devA 64#7).rom.extractLsb' 0 8 ≠ 0x00#8 ∧
    (finishing 0x100#64 0#7).rom.extractLsb' 0 8 = 0x00#8 ∧
    (∀ k < 8, ({ finishing devA 0#7 with romWritten := 0xFFFFFFFFFFFFFF00#64 } : State).romWritten.getLsbD k = false) := by
  decide

theorem witness_SearchResetClearsTheMarkers : afterA.phase = .idle ∧ afterA.ld = 64#7 := ⟨rfl, rfl⟩
theorem witness_ExhaustedEnumNextStartsOver :
    ({ afterA with exh := true, ld := 0#7 } : State).phase = .idle ∧
    ({ afterA with exh := true, ld := 0#7 } : State).exh = true := ⟨rfl, rfl⟩

/-- The invariant holds where a pass stands to be continued, not only at reset. -/
theorem afterA_inv : Inv afterA where
  ld_le := by decide
  lfd_le := by decide
  exh_ld := by decide
  rom_kept := fun _ => ⟨rfl, rfl, fun _ _ _ => rfl⟩
  exh_pass := by decide
  bits_written := fun k h => absurd h (Nat.not_lt_zero k)
  cursor_round := by decide
  cursor_end := by decide
  last_zero_le := by decide
  reset_latched := by decide
  result_legal := ⟨.ok, true, true, false, rfl, fun _ => rfl⟩

theorem witness_EnumNextCompletesWithOneOutcome : Inv afterA ∧ undisturbed afterA := ⟨afterA_inv, rfl, rfl⟩
theorem witness_SequencerRefinesTheOneRule : undisturbed afterA ∧ undisturbed State.reset := ⟨⟨rfl, rfl⟩, rfl, rfl⟩

/-- What `ENUM_NEXT` leaves: a next state is there to speak of. -/
theorem exists_of_look {α : Type} {o : Host.Outcome State Fault Refusal} {f : State → α} {v : α}
    (h : look o f = some v) : ∃ t, o = .next t ∧ f t = v := by
  cases o with
  | next t => exact ⟨t, rfl, Option.some.inj h⟩
  | fault _ => cases h
  | refused _ => cases h

theorem enumNext_afterA : ∃ t, exec .enumNext afterA = .next t ∧ t.result = 0x30#8 := by
  obtain ⟨t, h, hr⟩ := exists_of_look (f := fun t => t.result) (v := 0x30#8)
    (show look (exec .enumNext afterA) _ = _ by decide +kernel)
  exact ⟨t, h, hr⟩

theorem witness_CompletePassIssuesItsPrimitives :
    ∃ t, undisturbed afterA ∧ exec .enumNext afterA = .next t ∧ t.result = 0x30#8 := by
  obtain ⟨t, h, hr⟩ := enumNext_afterA
  exact ⟨t, ⟨rfl, rfl⟩, h, hr⟩
theorem witness_EnumNextBusWorkIsBounded :
    (∃ t, undisturbed afterA ∧ exec .enumNext afterA = .next t) ∧
    (undisturbed { afterA with exh := true } ∧ ({ afterA with exh := true } : State).exh = true) := by
  obtain ⟨t, h, -⟩ := enumNext_afterA
  exact ⟨⟨t, ⟨rfl, rfl⟩, h⟩, ⟨rfl, rfl⟩, rfl⟩
theorem witness_EnumNextReadsOnlyTheSearchState :
    ∃ t, undisturbed afterA ∧ afterA.exh = false ∧ exec .enumNext afterA = .next t := by
  obtain ⟨t, h, -⟩ := enumNext_afterA
  exact ⟨t, ⟨rfl, rfl⟩, rfl, h⟩

/-- 194 answers of a lone device whose identifier is all ones. -/
def allOnes : State :=
  prims (saying true false false :: good 0#8 ::
    (List.replicate 64 [saying true false true, saying true false false, good 0#8]).flatten)

theorem witness_OutcomesDecideEnumNext :
    ∃ t, undisturbed allOnes ∧ undisturbed { allOnes with seen := [(0x02#8, 0x0F#8)] } ∧
      sameController allOnes { allOnes with seen := [(0x02#8, 0x0F#8)] } ∧ allOnes.env.level = .primitives ∧
      194 ≤ allOnes.env.answers.length ∧ exec .enumNext allOnes = .next t ∧ t.result = 0x30#8 := by
  obtain ⟨t, h, hr⟩ := exists_of_look (f := fun t => t.result) (v := 0x30#8)
    (show look (exec .enumNext allOnes) _ = _ by decide +kernel)
  exact ⟨t, ⟨rfl, rfl⟩, ⟨rfl, rfl⟩, rfl, rfl, by decide +kernel, h, hr⟩
theorem witness_PrimitiveLevelAdmitsEveryRun :
    ∃ t, undisturbed afterA ∧ portOf .enumNext = .cmd ∧ exec .enumNext afterA = .next t := by
  obtain ⟨t, h, -⟩ := enumNext_afterA
  exact ⟨t, ⟨rfl, rfl⟩, rfl, h⟩
theorem witness_EveryCommandEndsInIdle : ∃ t, portOf .enumNext = .cmd ∧ exec .enumNext afterA = .next t := by
  obtain ⟨t, h, -⟩ := enumNext_afterA
  exact ⟨t, rfl, h⟩

/-- The reference bus in this mode, with the devices of S2 live. -/
def busIn (m : BusMode) : Env :=
  { Env.initial with
    level := .reference, bus := { devices := [devA, devB], live := [devA, devB], mode := m, overlay := [] } }

theorem witness_ReferenceBusFollowsR67 :
    ∀ m ∈ [BusMode.offPattern, .afterReset, .search 1 0, .search 64 1, .search 64 2],
      (busIn m).level = .reference ∧ (busIn m).bus.overlay = [] ∧ (busIn m).bus.mode = m := by decide
/-- R114 and R116 after `OW_RESET` on a bus without devices. -/
theorem test_unanswered_slots :
    look (exec .owReadBit { onBus [] [] with busSync := true }) (fun t => (t.result, t.data)) = some (0x00#8, 0x01#8) ∧
    look (exec .owReadByte { onBus [] [] with busSync := true }) (fun t => (t.result, t.data)) = some (0x00#8, 0xFF#8) := by
  decide +kernel
theorem witness_UnansweredSlotsReadAsOnes :
    (undisturbed { onBus [] [] with busSync := true } ∧ (onBus [] []).env.level = .reference ∧
      (onBus [] []).env.bus.overlay = [] ∧ (onBus [] []).env.bus.devices = [] ∧ (onBus [] []).env.bus.live = []) ∧
    (∀ r ∈ [0, 1, 2], ({ busIn (.search 9 r) with bus.live := [] } : Env).bus.live = [] ∧
      ({ busIn (.search 9 r) with bus.live := [] } : Env).bus.mode = .search 9 r ∧
      ({ busIn (.search 9 r) with bus.live := [] } : Env).bus.overlay = []) :=
  ⟨⟨⟨rfl, rfl⟩, rfl, rfl, rfl, rfl⟩, by decide⟩
theorem witness_WiredAndAnswersByLiveSet :
    [devA] ≠ [] ∧ (∀ d ∈ [devA], d.getLsbD 3 = true) ∧
    (∃ d ∈ [devA, devB], ∃ d' ∈ [devA, devB], d.getLsbD 63 = true ∧ d'.getLsbD 63 = false) :=
  ⟨by simp, by simpa using (by decide : devA.getLsbD 3 = true), devB, by simp, devA, by simp, by decide, by decide⟩
theorem witness_SearchOrderIsReversedBitOrder : precedes devA devB ∧ devA ≠ devB := ⟨test_search_order.2, by decide⟩

/-- The last branch of the pass that found A is position 64, where B goes on. -/
theorem afterA_lastBranch : lastBranch [devA, devB] devA 64 :=
  .inr ⟨⟨by decide, by decide, by decide, devB, by decide, by unfold agreeBelow; decide, by decide⟩, fun _ h => h.2.1⟩

theorem families_nonzero : ∀ d ∈ [devA, devB], d.extractLsb' 0 8 ≠ 0x00#8 := by
  simpa using (by decide : devA.extractLsb' 0 8 ≠ 0x00#8 ∧ devB.extractLsb' 0 8 ≠ 0x00#8)

theorem witness_EnumNextFindsTheNextDevice :
    (undisturbed afterA ∧ onReference [devA, devB] afterA ∧ onTrack [devA, devB] afterA ∧ afterA.exh = false ∧
      afterA.ld.toNat ≤ 64 ∧ afterA.ld ≠ 0#7) ∧
    (undisturbed (onBus [devA, devB] []) ∧ onReference [devA, devB] (onBus [devA, devB] []) ∧
      onTrack [devA, devB] (onBus [devA, devB] []) ∧ (onBus [devA, devB] []).ld = 0#7) ∧
    (∀ d ∈ [devA, devB], d.extractLsb' 0 8 ≠ 0x00#8) :=
  ⟨⟨⟨rfl, rfl⟩, ⟨rfl, rfl, rfl, by decide⟩, .inr ⟨rfl, by decide, afterA_lastBranch⟩, rfl, by decide, by decide⟩,
    ⟨⟨rfl, rfl⟩, ⟨rfl, rfl, rfl, by decide⟩, .inl rfl, rfl⟩, families_nonzero⟩
theorem witness_RetraceReproducesThePrefix :
    ∃ t, undisturbed afterA ∧ onReference [devA, devB] afterA ∧ onTrack [devA, devB] afterA ∧ afterA.exh = false ∧
      afterA.ld ≠ 0#7 ∧ afterA.ld.toNat ≤ 64 ∧ exec .enumNext afterA = .next t ∧ t.result = 0x30#8 := by
  obtain ⟨t, h, hr⟩ := enumNext_afterA
  exact ⟨t, ⟨rfl, rfl⟩, ⟨rfl, rfl, rfl, by decide⟩, .inr ⟨rfl, by decide, afterA_lastBranch⟩, rfl, by decide, by decide,
    h, hr⟩
theorem witness_EnumerationVisitsEachDeviceOnceInOrder :
    [devA, devB].Pairwise precedes ∧ undisturbed (onBus [devB, devA] []) ∧
    (∃ S, onReference S (onBus [devB, devA] []) ∧ ∀ d, d ∈ S ↔ d ∈ [devA, devB]) ∧
    (∀ d ∈ [devA, devB], d.extractLsb' 0 8 ≠ 0x00#8) ∧ (onBus [devB, devA] []).ld = 0#7 ∧
    (onBus [devB, devA] []).exh = false :=
  ⟨by simp [test_search_order.2], ⟨rfl, rfl⟩,
    ⟨[devB, devA], ⟨rfl, rfl, rfl, by decide⟩, fun d => by simp [or_comm]⟩, families_nonzero, rfl, rfl⟩
theorem witness_ZeroFamilyDeviceHidesEveryDevice :
    undisturbed (onBus [0x100#64, devA] []) ∧ onReference [0x100#64, devA] (onBus [0x100#64, devA] []) ∧
    (0x100#64 : Ident) ∈ [0x100#64, devA] ∧ (0x100#64 : Ident).extractLsb' 0 8 = 0x00#8 ∧
    (onBus [0x100#64, devA] []).ld = 0#7 ∧ (onBus [0x100#64, devA] []).exh = false :=
  ⟨⟨rfl, rfl⟩, ⟨rfl, rfl, rfl, by decide⟩, by decide, by decide, rfl, rfl⟩

/-- Between two rounds of a pass that continues after A. -/
def between : State :=
  { afterA with
    phase := .eRdId, n := 5#7, lastZero := 0#7, latSd := false,
    env := { Env.initial with level := .primitives, answers := [good 0#8] } }

theorem between_inv : Inv between where
  ld_le := by decide
  lfd_le := by decide
  exh_ld := by decide
  rom_kept := fun _ => ⟨rfl, rfl, fun _ _ _ => rfl⟩
  exh_pass := by decide
  bits_written := by decide
  cursor_round := by decide
  cursor_end := by decide
  last_zero_le := by decide
  reset_latched := by decide
  result_legal := ⟨.ok, true, true, false, rfl, fun _ => rfl⟩

theorem witness_StepKeepsTheInvariant :
    Inv between ∧ ∃ t, step between = .next t ∧ t.phase = .eRdCmp := ⟨between_inv, _, rfl, rfl⟩
theorem witness_DutifulHostIsNeverStopped :
    (Inv afterA ∧ dutiful (asks (.write 0x00#8 0x04#8) afterA) ∧ dutiful (asks (.read 0x0F#8) afterA)) ∧
    (Inv between ∧ between.phase ≠ .idle ∧ between.arrivals = []) :=
  ⟨⟨afterA_inv, ⟨rfl, rfl, fun _ _ => rfl⟩, rfl, rfl,
      show peek 0x0F#8 (asks (.read 0x0F#8) afterA) ≠ none by decide⟩, between_inv, by decide, rfl⟩
theorem witness_RegistersHaveOnlyTheirWriters :
    ∃ t, undisturbed (asks (.write 0x00#8 0x03#8) (prims [good 0#8])) ∧
      step (asks (.write 0x00#8 0x03#8) (prims [good 0#8])) = .next t ∧ t.data ≠ 0x00#8 := by
  obtain ⟨t, h, hd⟩ := exists_of_look (f := fun t => t.data) (v := 0x01#8)
    (show look (step (asks (.write 0x00#8 0x03#8) (prims [good 0#8]))) _ = _ by decide)
  exact ⟨t, ⟨rfl, rfl⟩, h, by rw [hd]; decide⟩
theorem witness_FoundMeansEnumNextOk :
    ∃ t, undisturbed (asks (.write 0x00#8 0x10#8) afterA) ∧
      step (asks (.write 0x00#8 0x10#8) afterA) = .next t ∧ resultFound t.result = true := by
  obtain ⟨t, h, hd⟩ := exists_of_look (f := fun t => resultFound t.result) (v := true)
    (show look (step (asks (.write 0x00#8 0x10#8) afterA)) _ = _ by decide +kernel)
  exact ⟨t, ⟨rfl, rfl⟩, h, hd⟩
theorem witness_InstancesShareNothing :
    ∃ ms, stepInstance 1 [afterA, asks (.write 0x01#8 0x77#8) State.reset] = .next ms ∧ ms.length = 2 := ⟨_, rfl, rfl⟩

end Sys2Proof.Tests
end

section
/-! Level P admits every run (spec/00_scope.md R6, spec/40_bus_primitives.md R111): the controller meets its
environment only through the outcome of each primitive, and every outcome is an answer of level P. So a run is followed
row by row on the same controller with another environment, whose answers are the outcomes of the run. -/

namespace Sys2Proof.Machine

/-! ### The same controller in another environment -/

/-- The controller of `s` in the environment `e`. -/
def withEnv (e : Env) (s : State) : State := { s with env := e }

@[simp] theorem withEnv_phase (e : Env) (s : State) : (withEnv e s).phase = s.phase := rfl
@[simp] theorem withEnv_idBit (e : Env) (s : State) : (withEnv e s).idBit = s.idBit := rfl
@[simp] theorem withEnv_cmpBit (e : Env) (s : State) : (withEnv e s).cmpBit = s.cmpBit := rfl
@[simp] theorem withEnv_dir (e : Env) (s : State) : (withEnv e s).dir = s.dir := rfl
@[simp] theorem withEnv_params (e : Env) (s : State) : (withEnv e s).params = s.params := rfl
@[simp] theorem withEnv_own (s : State) : withEnv s.env s = s := rfl

theorem withEnv_sameController (e : Env) (s : State) : sameController (withEnv e s) s := rfl

/-- Level P with the answers `as` to come. -/
structure Answered (as : List Answer) (e : Env) : Prop where
  level : e.level = .primitives
  answers : e.answers = as

/-- The controller `s` cannot tell the environment `e` from its own by issuing `p`, which leaves it in `e2`. -/
structure SameOutcome (p : Prim) (s : State) (e e2 : Env) : Prop where
  outcome : primOutcome p (withEnv e s) = primOutcome p s
  after : afterPrim p (withEnv e s) = withEnv e2 (afterPrim p s)

/-- The outcome of a primitive, given as the next answer of level P, is its outcome there (R111). -/
theorem sameOutcome_of_answered {p : Prim} {s : State} {rest : List Answer} {e : Env}
    (he : Answered (answerOf (primOutcome p s) :: rest) e) : ∃ e2, Answered rest e2 ∧ SameOutcome p s e e2 := by
  have hrun : primRun (withEnv e s).params p (withEnv e s).env =
      (primOutcome p s, { e with answers := rest, log := .prim p :: e.log }) :=
    primRun_at_level_P s.params p s.env e rest he.level he.answers
  have hout : primOutcome p (withEnv e s) = primOutcome p s := (congrArg Prod.fst hrun :)
  refine ⟨{ e with answers := rest, log := .prim p :: e.log }, ⟨he.level, rfl⟩, hout, ?_⟩
  unfold afterPrim
  rw [hout, hrun]
  rfl

/-! ### The rows -/

section
variable {s : State} {e e2 : Env}

theorem resetRow_withEnv (h : SameOutcome .reset s e e2) : resetRow (withEnv e s) = withEnv e2 (resetRow s) := by
  unfold resetRow
  rw [h.outcome, h.after]
  cases primOutcome .reset s with
  | err x => rfl
  | ok v =>
    simp only
    split
    · rfl
    · split <;> rfl

theorem searchRow_withEnv (h : SameOutcome (.writeByte s.params.searchCmd) s e e2) :
    searchRow (withEnv e s) = withEnv e2 (searchRow s) := by
  unfold searchRow
  rw [withEnv_params, h.outcome, h.after]
  cases primOutcome (.writeByte s.params.searchCmd) s <;> rfl

theorem readIdRow_withEnv (h : SameOutcome .readBit s e e2) : readIdRow (withEnv e s) = withEnv e2 (readIdRow s) := by
  unfold readIdRow
  rw [h.outcome, h.after]
  cases primOutcome .readBit s <;> rfl

theorem writeDirRow_withEnv (h : SameOutcome (.writeBit s.dir) s e e2) :
    writeDirRow (withEnv e s) = withEnv e2 (writeDirRow s) := by
  unfold writeDirRow
  rw [withEnv_dir, h.outcome, h.after]
  cases primOutcome (.writeBit s.dir) s <;> rfl

theorem reportPrim_withEnv (p : Prim) (v : PrimValue) (e : Env) (s : State) :
    reportPrim p v (withEnv e s) = withEnv e (reportPrim p v s) := by cases p <;> rfl

theorem runPrimRow_withEnv {p : Prim} (h : SameOutcome p s e e2) :
    runPrimRow p (withEnv e s) = withEnv e2 (runPrimRow p s) := by
  unfold runPrimRow
  rw [h.outcome, h.after]
  cases primOutcome p s with
  | ok v => exact reportPrim_withEnv p v e2 _
  | err x => rfl

theorem judgePair_withEnv {t : State} (e : Env) (h : judgePair s = .next t) :
    judgePair (withEnv e s) = .next (withEnv e t) := by
  have hdir : chooseDir (withEnv e s) = chooseDir s := rfl
  unfold judgePair
  rcases judgePair_cases s with ⟨hid, hcmp, hr⟩ | ⟨d, hb, hd, hr⟩ | ⟨-, -, hr⟩ <;> rw [hr] at h <;> cases h
  · exact if_pos (by simp [hid, hcmp])
  · rw [hdir, hd]
    exact if_neg (by simp [hb])

theorem readCmpRow_withEnv {t : State} (h : SameOutcome .readBit s e e2) (hr : readCmpRow s = .next t) :
    readCmpRow (withEnv e s) = .next (withEnv e2 t) := by
  unfold readCmpRow at hr ⊢
  rw [h.outcome, h.after]
  cases ho : primOutcome .readBit s with
  | err x => rw [ho] at hr; cases hr; rfl
  | ok v => rw [ho] at hr; exact judgePair_withEnv e2 hr

theorem finishRow_withEnv {t : State} (e : Env) (h : finishRow s = .next t) :
    finishRow (withEnv e s) = .next (withEnv e t) := by
  unfold finishRow at h
  split at h
  · cases h
  · rename_i hfam
    split at h
    · rename_i hzero
      cases h
      exact (if_neg hfam).trans (if_pos hzero)
    · rename_i hzero
      split at h
      · cases h
      · rename_i hall
        cases h
        exact (if_neg hfam).trans ((if_neg hzero).trans (if_neg hall))

end

/-! ### Runs on answers of level P -/

/-- There are answers of level P on which `f` takes the controller of `s` to the controller of `t`, using them up. -/
def Admits (f : State → Host.Outcome State Fault Refusal) (s t : State) : Prop :=
  ∃ as, ∀ rest e, Answered (as ++ rest) e → ∃ e2, Answered rest e2 ∧ f (withEnv e s) = .next (withEnv e2 t)

section
variable {f : State → Host.Outcome State Fault Refusal} {s t : State}

theorem admits_of_no_prim (h : ∀ e, f (withEnv e s) = .next (withEnv e t)) : Admits f s t :=
  ⟨[], fun _ e he => ⟨e, he, h e⟩⟩

theorem admits_of_prim (p : Prim)
    (h : ∀ e e2, SameOutcome p s e e2 → f (withEnv e s) = .next (withEnv e2 t)) : Admits f s t := by
  refine ⟨[answerOf (primOutcome p s)], fun rest e he => ?_⟩
  obtain ⟨e2, he2, hsame⟩ := sameOutcome_of_answered he
  exact ⟨e2, he2, h e e2 hsame⟩

theorem Admits.of_eq {g : State → Host.Outcome State Fault Refusal} {u : State} (h : Admits g u t)
    (hfg : ∀ e, f (withEnv e s) = g (withEnv e u)) : Admits f s t := by
  obtain ⟨as, has⟩ := h
  refine ⟨as, fun rest e he => ?_⟩
  rw [hfg e]
  exact has rest e he

end

/-- Every row has its answers: the outcome of its primitive, or none. -/
theorem runRow_admits {s t : State} (h : runRow s = .next t) : Admits runRow s t := by
  unfold runRow at h ⊢
  cases hp : s.phase <;> rw [hp] at h
  case idle => cases h; exact admits_of_no_prim fun e => by simp [hp]
  case eReset =>
    cases h; exact admits_of_prim .reset fun e e2 hs => by simp [hp, resetRow_withEnv hs]
  case eSearch =>
    cases h; exact admits_of_prim (.writeByte s.params.searchCmd) fun e e2 hs => by simp [hp, searchRow_withEnv hs]
  case eRdId =>
    cases h; exact admits_of_prim .readBit fun e e2 hs => by simp [hp, readIdRow_withEnv hs]
  case eRdCmp => exact admits_of_prim .readBit fun e e2 hs => by simp [hp, readCmpRow_withEnv hs h]
  case eWrDir =>
    cases h; exact admits_of_prim (.writeBit s.dir) fun e e2 hs => by simp [hp, writeDirRow_withEnv hs]
  case eFinish => exact admits_of_no_prim fun e => by simp [hp, finishRow_withEnv e h]
  case pRun p =>
    cases h; exact admits_of_prim p fun e e2 hs => by simp [hp, runPrimRow_withEnv hs]

/-- A run of rows has the answers of its rows, one after the other. -/
theorem runToIdle_admits {rows : Nat} {s t : State} (ha : s.arrivals = []) (h : runToIdle rows s = .next t) :
    Admits (runToIdle rows) s t := by
  induction rows generalizing s with
  | zero => cases h; exact admits_of_no_prim fun e => rfl
  | succ rows ih =>
    by_cases hi : s.phase = .idle
    · rw [runToIdle_idle _ hi] at h
      cases h
      exact admits_of_no_prim fun e => runToIdle_idle _ hi
    · rcases runRow_stop s with ⟨u, hu⟩ | ⟨hf, -⟩
      · rw [runToIdle_next hi ha hu] at h
        obtain ⟨first, hfirst⟩ := runRow_admits hu
        obtain ⟨later, hlater⟩ := ih ((runRow_frame hu).arrivals.trans ha) h
        refine ⟨first ++ later, fun rest e he => ?_⟩
        rw [List.append_assoc] at he
        obtain ⟨e1, he1, hrow⟩ := hfirst (later ++ rest) e he
        obtain ⟨e2, he2, hrun⟩ := hlater rest e1 he1
        exact ⟨e2, he2, (runToIdle_next (s := withEnv e s) hi ha hrow).trans hrun⟩
      · rw [runToIdle_fault hi ha hf] at h; cases h

/-! ### Host commands -/

section
variable {s t : State}

/-- A command that is the row P_RUN of one primitive. -/
theorem admits_of_runPrimRow {f : State → Host.Outcome State Fault Refusal} (p : Prim) (hr : f s = .next t)
    (hf : ∀ e, f (withEnv e s) = .next (runPrimRow p (withEnv e s))) : Admits f s t := by
  cases hr.symm.trans (hf s.env)
  exact admits_of_prim p fun e e2 hs => by rw [hf, runPrimRow_withEnv hs, withEnv_own]

/-- `ENUM_NEXT`: over at once when exhausted, else the rows of a pass. -/
theorem enumNext_admits (hi : s.phase = .idle) (ha : s.arrivals = []) (hr : exec .enumNext s = .next t) :
    Admits (exec .enumNext) s t := by
  rw [exec_enumNext hi] at hr
  by_cases hx : s.exh = true
  · rw [if_pos hx] at hr
    cases hr
    exact admits_of_no_prim fun e => (exec_enumNext (s := withEnv e s) hi).trans (if_pos hx)
  · rw [if_neg hx] at hr
    exact (runToIdle_admits (s := enterPhase .eReset s) ha hr).of_eq fun e =>
      (exec_enumNext (s := withEnv e s) hi).trans (if_neg hx)

/-- A bit or byte command that completes was given with BUS_SYNC set (spec/70_reset_and_hazards.md R195). -/
theorem busSync_of_exec {i : Instr} (hi : s.phase = .idle) (hr : exec i s = .next t)
    (hneeds : i = .owWriteBit ∨ i = .owReadBit ∨ i = .owWriteByte ∨ i = .owReadByte) : s.busSync = true := by
  by_contra hs
  obtain ⟨hwb, hrb, hwB, hrB⟩ := exec_hazard hi (by simpa using hs)
  rcases hneeds with rfl | rfl | rfl | rfl <;> simp_all

/-- Every host command that completes has its answers. -/
theorem exec_admits {i : Instr} (hi : s.phase = .idle) (ha : s.arrivals = []) (hc : portOf i = .cmd)
    (hr : exec i s = .next t) : Admits (exec i) s t := by
  cases i with
  | owReset => exact admits_of_runPrimRow .reset hr fun e => exec_owReset (s := withEnv e s) hi ha
  | owWriteBit =>
    have hs := busSync_of_exec hi hr (by simp)
    exact admits_of_runPrimRow (.writeBit (s.arg.getLsbD 0)) hr fun e => exec_owWriteBit (s := withEnv e s) hi ha hs
  | owReadBit =>
    have hs := busSync_of_exec hi hr (by simp)
    exact admits_of_runPrimRow .readBit hr fun e => exec_owReadBit (s := withEnv e s) hi ha hs
  | owWriteByte =>
    have hs := busSync_of_exec hi hr (by simp)
    exact admits_of_runPrimRow (.writeByte s.arg) hr fun e => exec_owWriteByte (s := withEnv e s) hi ha hs
  | owReadByte =>
    have hs := busSync_of_exec hi hr (by simp)
    exact admits_of_runPrimRow .readByte hr fun e => exec_owReadByte (s := withEnv e s) hi ha hs
  | enumNext => exact enumNext_admits hi ha hr
  | searchReset =>
    rw [exec_searchReset hi] at hr
    cases hr
    exact admits_of_no_prim fun e => exec_searchReset (s := withEnv e s) hi
  | illegal c =>
    rw [exec_illegal c hi] at hr
    cases hr
    exact admits_of_no_prim fun e => exec_illegal c (s := withEnv e s) hi
  | brSetReadPointer | br1wReset | br1wSingleBit | br1wWriteByte | br1wReadByte | busSearchRom => simp [portOf] at hc

end

/-- Settles O39, by simulation: the answers are the outcomes of the run's own primitives, row after row. -/
theorem primitiveLevelAdmitsEveryRun : Obligations.PrimitiveLevelAdmitsEveryRun := by
  intro s t i hquiet hc hr
  obtain ⟨hi, ha⟩ := hquiet
  obtain ⟨answers, hadmits⟩ := exec_admits hi ha hc hr
  obtain ⟨e2, -, hend⟩ :=
    hadmits [] { s.env with level := .primitives, answers := answers } ⟨rfl, (List.append_nil answers).symm⟩
  exact ⟨answers, withEnv e2 t, hend, withEnv_sameController e2 t⟩

end Sys2Proof.Machine
end

section
/-! What a step can do, said once (spec/41_search.md R141, spec/20_memory.md R58): a host access in IDLE, a row of the
sequencer outside it, and what each row of a pass leads to. Every rule about all steps is derived from these. -/

namespace Sys2Proof.Machine

/-! ### Turns -/

/-- A host access that goes through is a command, a write of ARG, or nothing but the host's own record. -/
theorem finishTurn_hostAccess_cases {x : HostAccess} {s t : State} (h : finishTurn (hostAccess x s) = .next t) :
    (∃ c, x = .write 0x00#8 c ∧ exec (decodeCmd c) s = .next t) ∨
      (∃ v, x = .write 0x01#8 v ∧ t = { s with arg := v }) ∨ ∃ seen, t = { s with seen := seen } := by
  cases x with
  | read a =>
    simp only [hostAccess, finishTurn, hostRead] at h
    split at h
    · cases h; exact .inr (.inr ⟨_, rfl⟩)
    · cases h
  | write a v =>
    by_cases h0 : a = 0x00#8
    · subst h0; exact .inl ⟨v, rfl, by simpa [hostAccess, finishTurn] using h⟩
    · simp only [hostAccess, if_neg h0, finishTurn, hostStore] at h
      split at h
      · rename_i h1; subst h1; cases h; exact .inr (.inl ⟨v, rfl, rfl⟩)
      · cases h; exact .inr (.inr ⟨s.seen, rfl⟩)

/-- A step of the sequencer that goes through is the reset input or a row. -/
theorem sequencerStep_cases {s t : State} (h : sequencerStep s = .next t) :
    (∃ rest, t = resetController { s with arrivals := rest }) ∨
      ∃ rest, runRow { s with arrivals := rest } = .next t := by
  unfold sequencerStep at h
  split at h
  · cases h
  · cases h; exact .inl ⟨_, rfl⟩
  · exact .inr ⟨_, h⟩
  · exact .inr ⟨s.arrivals, h⟩

/-- In IDLE the host makes its next access or lets the controller wait. -/
theorem finishTurn_hostTurn_cases {s t : State} (h : finishTurn (hostTurn s) = .next t) :
    t = s ∨ ∃ x host, finishTurn (hostAccess x { s with host := host }) = .next t := by
  unfold hostTurn at h
  split at h
  · exact .inr ⟨_, _, h⟩
  · cases h; exact .inl rfl

/-- A step that goes through is the reset input, a row outside IDLE, or, in IDLE, a wait or a host access. -/
theorem step_cases {s t : State} (h : step s = .next t) :
    (∃ rest, t = resetController { s with arrivals := rest }) ∨
      (s.phase ≠ .idle ∧ ∃ rest, runRow { s with arrivals := rest } = .next t) ∨
      (s.phase = .idle ∧ ∃ rest, t = { s with arrivals := rest } ∨
        ∃ x host, finishTurn (hostAccess x { s with arrivals := rest, host := host }) = .next t) := by
  rw [step_eq] at h
  unfold nextTurn at h
  by_cases hi : s.phase = .idle
  · rw [if_pos ((isIdle_eq_true _).2 hi)] at h
    split at h
    · exact .inr (.inr ⟨hi, _, .inr ⟨_, s.host, h⟩⟩)
    · cases h; exact .inl ⟨_, rfl⟩
    · rename_i k a rest _
      exact .inr (.inr ⟨hi, (k, a) :: rest, finishTurn_hostTurn_cases h⟩)
    · exact .inr (.inr ⟨hi, s.arrivals, finishTurn_hostTurn_cases h⟩)
  · rw [if_neg (fun hidle => hi ((isIdle_eq_true _).1 hidle))] at h
    exact (sequencerStep_cases h).imp id fun hrow => .inl ⟨hi, hrow⟩

/-! ### Rows of a pass -/

/-- What a row of `ENUM_NEXT` leads to (spec/41_search.md R132 to R138): the failed pass, which clears the search
state and leaves DATA alone, the next row, or the identifier found. -/
inductive PassStep (s : State) : State → Prop where
  | failed {u : State} (c : Code) (ppd sd : Bool) (hc : c ≠ .ok) (hdata : u.data = s.data)
      (hmark : u.dataWritten = s.dataWritten) : PassStep s (complete c false ppd sd (clearSearch u))
  | present {v : PrimValue} (hp : s.phase = .eReset) (ho : primOutcome .reset s = .ok v) :
      PassStep s (enterPhase .eSearch (latchReset true false (afterPrim .reset s)))
  | searching {v : PrimValue} (hp : s.phase = .eSearch) (ho : primOutcome (.writeByte s.params.searchCmd) s = .ok v) :
      PassStep s (enterPhase .eRdId (startRounds (afterPrim (.writeByte s.params.searchCmd) s)))
  | idRead {v : PrimValue} (hp : s.phase = .eRdId) (ho : primOutcome .readBit s = .ok v) :
      PassStep s (enterPhase .eRdCmp (latchId v.bit (afterPrim .readBit s)))
  | chosen {v : PrimValue} (d : Bool) (hp : s.phase = .eRdCmp) (ho : primOutcome .readBit s = .ok v) :
      PassStep s (enterPhase .eWrDir (recordDir d (latchCmp v.bit (afterPrim .readBit s))))
  | sent {v : PrimValue} (hp : s.phase = .eWrDir) (ho : primOutcome (.writeBit s.dir) s = .ok v) :
      PassStep s
        (enterPhase (if s.n < 64#7 then .eRdId else .eFinish) (nextPosition (afterPrim (.writeBit s.dir) s)))
  | found (hp : s.phase = .eFinish) (hw : s.romWritten = BitVec.allOnes 64) :
      PassStep s (complete .ok true true false (publishId (endPass s)))

theorem errorCode_ne_ok (e : BusError) : errorCode e ≠ .ok := by cases e <;> decide

section
variable {s t : State}

/-- An abort of a pass whose rows so far left DATA alone. -/
theorem passStep_abort {u : State} {c : Code} (hc : c ≠ .ok) (hdata : u.data = s.data)
    (hmark : u.dataWritten = s.dataWritten) : PassStep s (abort c u) :=
  .failed c u.latPpd u.latSd hc hdata hmark

theorem passStep_resetRow (hp : s.phase = .eReset) : PassStep s (resetRow s) := by
  unfold resetRow
  split
  · exact passStep_abort (errorCode_ne_ok _) rfl rfl
  · rename_i v ho
    split
    · exact passStep_abort (by decide) rfl rfl
    · rename_i hshort
      split
      · rename_i hpres
        rw [hpres, Bool.eq_false_of_not_eq_true hshort]
        exact .present hp ho
      · exact passStep_abort (by decide) rfl rfl

theorem passStep_searchRow (hp : s.phase = .eSearch) : PassStep s (searchRow s) := by
  unfold searchRow
  split
  · exact passStep_abort (errorCode_ne_ok _) rfl rfl
  · exact .searching hp (by assumption)

theorem passStep_readIdRow (hp : s.phase = .eRdId) : PassStep s (readIdRow s) := by
  unfold readIdRow
  split
  · exact passStep_abort (errorCode_ne_ok _) rfl rfl
  · exact .idRead hp (by assumption)

theorem passStep_readCmpRow (hp : s.phase = .eRdCmp) (h : readCmpRow s = .next t) : PassStep s t := by
  unfold readCmpRow at h
  split at h
  · cases h; exact passStep_abort (errorCode_ne_ok _) rfl rfl
  · rename_i v ho
    rcases judgePair_cases (latchCmp v.bit (afterPrim .readBit s)) with ⟨-, -, hr⟩ | ⟨d, -, -, hr⟩ | ⟨-, -, hr⟩ <;>
      rw [hr] at h <;> cases h
    · exact passStep_abort (by decide) rfl rfl
    · exact .chosen d hp ho

theorem passStep_writeDirRow (hp : s.phase = .eWrDir) : PassStep s (writeDirRow s) := by
  unfold writeDirRow
  split
  · exact passStep_abort (errorCode_ne_ok _) rfl rfl
  · exact .sent hp (by assumption)

theorem passStep_finishRow (hp : s.phase = .eFinish) (h : finishRow s = .next t) : PassStep s t := by
  rcases finishRow_cases s with ⟨-, -, hr⟩ | ⟨-, hw, hr⟩ | ⟨-, hr⟩ <;> rw [hr] at h <;> cases h
  · exact .failed .zeroFamily true false (by decide) rfl rfl
  · exact .found hp hw

/-- A row outside IDLE is the row P_RUN or a row of a pass. -/
theorem runRow_cases (hi : s.phase ≠ .idle) (h : runRow s = .next t) :
    (∃ p, s.phase = .pRun p ∧ t = runPrimRow p s) ∨ (inPass s.phase = true ∧ PassStep s t) := by
  unfold runRow at h
  cases hp : s.phase <;> rw [hp] at h
  case idle => exact absurd hp hi
  case eReset => cases h; exact .inr ⟨rfl, passStep_resetRow hp⟩
  case eSearch => cases h; exact .inr ⟨rfl, passStep_searchRow hp⟩
  case eRdId => cases h; exact .inr ⟨rfl, passStep_readIdRow hp⟩
  case eRdCmp => exact .inr ⟨rfl, passStep_readCmpRow hp h⟩
  case eWrDir => cases h; exact .inr ⟨rfl, passStep_writeDirRow hp⟩
  case eFinish => exact .inr ⟨rfl, passStep_finishRow hp h⟩
  case pRun p => cases h; exact .inl ⟨p, rfl, rfl⟩

end

end Sys2Proof.Machine
end

section
/-! The invariant of spec/10_state.md R39 and R25, in the form that also holds inside a pass: reset meets it and every
step keeps it. Outside a pass it speaks of the registers alone; inside one, each row is followed. -/

namespace Sys2Proof.Machine

/-! ### Outside a pass -/

/-- What the invariant says outside a pass: R39 (a) to (c), R25 and the legal RESULT. -/
structure RegistersOk (s : State) : Prop where
  ld_le : s.ld.toNat ≤ 64
  lfd_le : s.lfd.toNat ≤ 8
  exh_ld : s.exh = true → s.ld = 0#7
  rom_kept : s.ld ≠ 0#7 → s.romWritten = BitVec.allOnes 64 ∧ s.idWritten = true ∧
    ∀ k, k < 64 → s.rom.getLsbD k = s.idOut.getLsbD k
  result_legal : ∃ c found ppd sd, s.result = resultByte c found ppd sd ∧ (found = true → c = .ok)

section
variable {s : State}

theorem outside_pass (hp : inPass s.phase = false) :
    bitsDone s = 0 ∧ inRound s.phase = false ∧ s.phase ≠ .eFinish ∧ afterBusReset s.phase = false := by
  unfold bitsDone
  cases h : s.phase <;> simp_all [inPass, inRound, afterBusReset]

theorem inv_iff_registersOk (hp : inPass s.phase = false) : Inv s ↔ RegistersOk s := by
  obtain ⟨hbits, hround, hfinish, hbus⟩ := outside_pass hp
  constructor
  · intro h
    exact { h with rom_kept := by simpa [hbits] using h.rom_kept }
  · intro h
    exact { h with
      rom_kept := by simpa [hbits] using h.rom_kept
      exh_pass := by simp [hp]
      bits_written := by simp [hbits]
      cursor_round := by simp [hround]
      cursor_end := fun he => absurd he hfinish
      last_zero_le := by simp [hround, hfinish]
      reset_latched := by simp [hbus] }

/-- After `SR()` the registers are in order whatever they were, with any legal RESULT. -/
theorem inv_complete_clearSearch {c : Code} {found : Bool} (ppd sd : Bool) (s : State) (hf : found = true → c = .ok) :
    Inv (complete c found ppd sd (clearSearch s)) :=
  (inv_iff_registersOk rfl).2
    { ld_le := by simp, lfd_le := by simp, exh_ld := by simp, rom_kept := by simp
      result_legal := ⟨c, found, ppd, sd, rfl, hf⟩ }

theorem inv_resetController (s : State) : Inv (resetController s) :=
  (inv_iff_registersOk rfl).2
    { ld_le := Nat.zero_le _, lfd_le := Nat.zero_le _, exh_ld := fun _ => rfl, rom_kept := fun h => absurd rfl h
      result_legal := ⟨.resetState, false, false, false, rfl, by simp⟩ }

/-- Reporting an outcome outside a pass writes RESULT alone. -/
theorem RegistersOk.inv_complete {c : Code} {found : Bool} (ppd sd : Bool) (h : RegistersOk s)
    (hf : found = true → c = .ok) : Inv (complete c found ppd sd s) :=
  (inv_iff_registersOk rfl).2 { h with result_legal := ⟨c, found, ppd, sd, rfl, hf⟩ }

/-- The row P_RUN writes none of the registers the invariant speaks of but RESULT. -/
theorem RegistersOk.inv_runPrimRow {p : Prim} (h : RegistersOk s) : Inv (runPrimRow p s) := by
  unfold runPrimRow
  have hafter : RegistersOk (afterPrim p s) := { h with }
  split
  · rename_i v _
    have hdata : ∀ b, RegistersOk (writeData b (afterPrim p s)) := fun b => { hafter with }
    cases p with
    | reset | writeBit | writeByte => exact hafter.inv_complete _ _ (by simp)
    | readBit | readByte => exact (hdata _).inv_complete _ _ (by simp)
  · exact hafter.inv_complete _ _ (by simp)

/-- A pass starts with nothing of it done. -/
theorem RegistersOk.inv_enterPhase_eReset (h : RegistersOk s) (hx : s.exh = false) : Inv (enterPhase .eReset s) :=
  { h with
    rom_kept := by simpa [bitsDone] using h.rom_kept
    exh_pass := fun _ => hx
    bits_written := by simp [bitsDone]
    cursor_round := by simp [inRound]
    cursor_end := by simp
    last_zero_le := by simp [inRound]
    reset_latched := by simp [afterBusReset] }

end

/-! ### The record of a direction -/

theorem setBit_allOnes (k : Nat) : setBit (BitVec.allOnes 64) k true = BitVec.allOnes 64 :=
  eq_allOnes_of_bits _ fun j hj => by
    rw [getLsbD_setBit _ _ _ _ hj, BitVec.getLsbD_allOnes, decide_eq_true hj, ite_self]

/-- LFD takes only positions 1 to 8 (spec/41_search.md R135). -/
theorem recordDir_lfd_le {s : State} (d : Bool) (h : s.lfd.toNat ≤ 8) : (recordDir d s).lfd.toNat ≤ 8 := by
  rw [recordDir_lfd]
  split
  · rename_i hz
    rw [Bool.and_eq_true, decide_eq_true_eq, BitVec.le_def] at hz
    rw [BitVec.toNat_setWidth]
    exact (Nat.mod_le _ _).trans hz.2
  · exact h

/-- `last_zero` never runs ahead of the cursor. -/
theorem recordDir_lastZero_le {s : State} (d : Bool) (h : s.lastZero.toNat ≤ s.n.toNat) :
    (recordDir d s).lastZero.toNat ≤ s.n.toNat := by
  rw [recordDir_lastZero]
  split
  · exact le_rfl
  · exact h

/-! ### The rows of a pass -/

section
variable {s : State} {v : PrimValue}

theorem inv_present (h : Inv s) (hp : s.phase = .eReset) (ho : primOutcome .reset s = .ok v) :
    Inv (enterPhase .eSearch (latchReset true false (afterPrim .reset s))) :=
  { h with
    rom_kept := by simpa [bitsDone, hp] using h.rom_kept
    exh_pass := fun _ => h.exh_pass (by rw [hp]; rfl)
    bits_written := by simp [bitsDone]
    cursor_round := by simp [inRound]
    cursor_end := by simp
    last_zero_le := by simp [inRound]
    reset_latched := by simp [ho] }

theorem inv_searching (h : Inv s) (hp : s.phase = .eSearch)
    (ho : primOutcome (.writeByte s.params.searchCmd) s = .ok v) :
    Inv (enterPhase .eRdId (startRounds (afterPrim (.writeByte s.params.searchCmd) s))) := by
  obtain ⟨hppd, hsd, hsync⟩ := h.reset_latched (by rw [hp]; rfl)
  exact { h with
    rom_kept := by simpa [bitsDone, hp, startRounds] using h.rom_kept
    exh_pass := fun _ => h.exh_pass (by rw [hp]; rfl)
    bits_written := by simp [bitsDone, startRounds]
    cursor_round := by simp [startRounds]
    cursor_end := by simp
    last_zero_le := by simp [startRounds]
    reset_latched := fun _ => ⟨hppd, hsd, by simp [startRounds, ho, hsync]⟩ }

theorem inv_idRead (h : Inv s) (hp : s.phase = .eRdId) (ho : primOutcome .readBit s = .ok v) :
    Inv (enterPhase .eRdCmp (latchId v.bit (afterPrim .readBit s))) := by
  obtain ⟨hppd, hsd, hsync⟩ := h.reset_latched (by rw [hp]; rfl)
  exact { h with
    rom_kept := by simpa [bitsDone, hp] using h.rom_kept
    exh_pass := fun _ => h.exh_pass (by rw [hp]; rfl)
    bits_written := by simpa [bitsDone, hp] using h.bits_written
    cursor_round := fun _ => h.cursor_round (by rw [hp]; rfl)
    cursor_end := by simp
    last_zero_le := by simpa [bitsDone, hp, inRound] using h.last_zero_le
    reset_latched := fun _ => ⟨hppd, hsd, by simp [ho, hsync]⟩ }

/-- The row E_RD_CMP that goes on writes position `n`, so that the pass has then written its first `n` bits. -/
theorem inv_chosen (d : Bool) (h : Inv s) (hp : s.phase = .eRdCmp) (ho : primOutcome .readBit s = .ok v) :
    Inv (enterPhase .eWrDir (recordDir d (latchCmp v.bit (afterPrim .readBit s)))) := by
  obtain ⟨hppd, hsd, hsync⟩ := h.reset_latched (by rw [hp]; rfl)
  obtain ⟨hn1, hn64⟩ := h.cursor_round (by rw [hp]; rfl)
  have hbits : bitsDone s = s.n.toNat - 1 := by simp [bitsDone, hp]
  have hlast := h.last_zero_le (.inl (by rw [hp]; rfl))
  have hcursor : cursorIndex (latchCmp v.bit (afterPrim .readBit s)) = s.n.toNat - 1 := cursorIndex_eq s hn1
  rw [hbits] at hlast
  exact { h with
    lfd_le := recordDir_lfd_le d h.lfd_le
    rom_kept := by
      intro hld
      obtain ⟨hall, hid, hrom⟩ := h.rom_kept hld
      refine ⟨?_, hid, fun k hk hk64 => ?_⟩
      · show setBit s.romWritten _ true = _
        rw [hall, setBit_allOnes]
      · have hnk : s.n.toNat ≤ k := hk
        simp only [enterPhase_rom, recordDir_rom, hcursor, getLsbD_setBit _ _ _ _ hk64]
        rw [if_neg (by omega)]
        exact hrom k (by omega) hk64
    exh_pass := fun _ => h.exh_pass (by rw [hp]; rfl)
    bits_written := by
      intro k hk
      have hkn : k < s.n.toNat := hk
      simp only [enterPhase_romWritten, recordDir_romWritten, hcursor, getLsbD_setBit _ _ _ k (by omega)]
      split
      · rfl
      · exact h.bits_written k (by omega)
    cursor_round := fun _ => ⟨hn1, hn64⟩
    cursor_end := by simp
    last_zero_le := fun _ => recordDir_lastZero_le d (hlast.trans (Nat.sub_le _ _))
    reset_latched := fun _ => ⟨hppd, hsd, by simp [ho, hsync]⟩ }

/-- After E_WR_DIR at position `n` the first `n` bits are written, whether or not that ends the rounds. -/
theorem bitsDone_sent (u : State) (hn : u.n.toNat ≤ 64) :
    bitsDone (enterPhase (if u.n < 64#7 then .eRdId else .eFinish) (nextPosition u)) = u.n.toNat := by
  by_cases hlt : u.n < 64#7
  · rw [if_pos hlt]
    show (u.n + 1#7).toNat - 1 = u.n.toNat
    bv_omega
  · rw [if_neg hlt]
    show 64 = u.n.toNat
    bv_omega

theorem inv_sent (h : Inv s) (hp : s.phase = .eWrDir) (ho : primOutcome (.writeBit s.dir) s = .ok v) :
    Inv (enterPhase (if s.n < 64#7 then .eRdId else .eFinish) (nextPosition (afterPrim (.writeBit s.dir) s))) := by
  obtain ⟨hppd, hsd, hsync⟩ := h.reset_latched (by rw [hp]; rfl)
  obtain ⟨hn1, hn64⟩ := h.cursor_round (by rw [hp]; rfl)
  have hbits : bitsDone _ = bitsDone s :=
    (bitsDone_sent (afterPrim (.writeBit s.dir) s) hn64).trans (by simp [bitsDone, hp])
  rw [afterPrim_n] at hbits
  exact { h with
    rom_kept := by rw [hbits]; exact h.rom_kept
    exh_pass := fun _ => h.exh_pass (by rw [hp]; rfl)
    bits_written := by rw [hbits]; exact h.bits_written
    cursor_round := fun hround => by
      have hlt : s.n < 64#7 := by
        by_contra hlt
        simp [hlt, inRound] at hround
      rw [enterPhase_n, nextPosition_n, afterPrim_n]
      bv_omega
    cursor_end := fun hend => by
      have hlt : ¬ s.n < 64#7 := fun hlt => by simp [hlt] at hend
      rw [enterPhase_n, nextPosition_n, afterPrim_n]
      bv_omega
    last_zero_le := fun _ => by
      rw [hbits]
      exact h.last_zero_le (.inl (by rw [hp]; rfl))
    reset_latched := fun _ => ⟨hppd, hsd, by simp [ho, hsync]⟩ }

/-- The end of a pass that found an identifier: ROM is written whole and published, and LD and EXH follow R136. -/
theorem inv_found (h : Inv s) (hp : s.phase = .eFinish) (hw : s.romWritten = BitVec.allOnes 64) :
    Inv (complete .ok true true false (publishId (endPass s))) := by
  have hbits : bitsDone s = 64 := by simp [bitsDone, hp]
  have hexh := h.exh_pass (by rw [hp]; rfl)
  exact (inv_iff_registersOk rfl).2
    { ld_le := hbits ▸ h.last_zero_le (.inr hp)
      lfd_le := h.lfd_le
      exh_ld := by simp [hexh]
      rom_kept := fun _ => ⟨hw, rfl, fun _ _ => rfl⟩
      result_legal := ⟨.ok, true, true, false, rfl, fun _ => rfl⟩ }

end

/-! ### Every step -/

section
variable {s t : State}

theorem PassStep.keeps_inv (hstep : PassStep s t) (h : Inv s) : Inv t := by
  cases hstep with
  | failed c ppd sd => exact inv_complete_clearSearch ppd sd _ (by simp)
  | present hp ho => exact inv_present h hp ho
  | searching hp ho => exact inv_searching h hp ho
  | idRead hp ho => exact inv_idRead h hp ho
  | chosen d hp ho => exact inv_chosen d h hp ho
  | sent hp ho => exact inv_sent h hp ho
  | found hp hw => exact inv_found h hp hw

theorem runRow_keeps_inv (h : Inv s) (hr : runRow s = .next t) : Inv t := by
  by_cases hi : s.phase = .idle
  · unfold runRow at hr
    rw [hi] at hr
    cases hr
    exact h
  · rcases runRow_cases hi hr with ⟨p, hp, rfl⟩ | ⟨-, hstep⟩
    · exact ((inv_iff_registersOk (by rw [hp]; rfl)).1 h).inv_runPrimRow
    · exact hstep.keeps_inv h

theorem sequencerStep_keeps_inv (s t : State) (h : Inv s) (hr : sequencerStep s = .next t) : Inv t := by
  rcases sequencerStep_cases hr with ⟨rest, rfl⟩ | ⟨rest, hrow⟩
  · exact inv_resetController _
  · exact runRow_keeps_inv (s := { s with arrivals := rest }) { h with } hrow

/-- A host command keeps the invariant: it ends at once, or is a run of rows. -/
theorem exec_keeps_inv {i : Instr} (hc : portOf i = .cmd) (h : Inv s) (hr : exec i s = .next t) : Inv t := by
  obtain ⟨hi, hcases⟩ := exec_command_cases hc hr
  have hregs : RegistersOk s := (inv_iff_registersOk (by rw [hi]; rfl)).1 h
  rcases hcases with ⟨p, hrun, -⟩ | ⟨-, -, rfl⟩ | ⟨-, hx, hrun⟩ | ⟨-, rfl⟩ | ⟨c, -, rfl⟩
  · exact runToIdle_keeps sequencerStep_keeps_inv
      ((inv_iff_registersOk (s := enterPhase (.pRun p) s) rfl).2 { hregs with }) hrun
  · exact inv_complete_clearSearch _ _ _ (by simp)
  · exact runToIdle_keeps sequencerStep_keeps_inv (hregs.inv_enterPhase_eReset hx) hrun
  · exact inv_complete_clearSearch _ _ _ (by simp)
  · exact hregs.inv_complete _ _ (by simp)

theorem finishTurn_hostAccess_keeps_inv {x : HostAccess} (h : Inv s)
    (hr : finishTurn (hostAccess x s) = .next t) : Inv t := by
  rcases finishTurn_hostAccess_cases hr with ⟨c, -, hexec⟩ | ⟨v, -, rfl⟩ | ⟨seen, rfl⟩
  · exact exec_keeps_inv (portOf_decodeCmd c) h hexec
  · exact { h with }
  · exact { h with }

end

/-- Settles O47: reset is the reset input's own result. -/
theorem resetMeetsTheInvariant : Obligations.ResetMeetsTheInvariant :=
  inv_resetController State.reset

/-- Settles O48, by what a step can do: the reset input, a row, a wait or a host access each keep the invariant. -/
theorem stepKeepsTheInvariant : Obligations.StepKeepsTheInvariant := by
  intro s t h hstep
  rcases step_cases hstep with ⟨rest, rfl⟩ | ⟨-, rest, hrow⟩ | ⟨-, rest, rfl | ⟨x, host, haccess⟩⟩
  · exact inv_resetController _
  · exact runRow_keeps_inv (s := { s with arrivals := rest }) { h with } hrow
  · exact { h with }
  · exact finishTurn_hostAccess_keeps_inv (s := { s with arrivals := rest, host := host }) { h with } haccess

end Sys2Proof.Machine
end

section
/-! Every command ends in IDLE (spec/10_state.md R31, spec/41_search.md R141): each row leaves fewer rows to go, and
`passRows` is what a pass starts with. -/

namespace Sys2Proof.Machine

/-- The rows still to run until IDLE, at most. -/
def rowsLeft (s : State) : Nat :=
  match s.phase with
  | .idle => 0
  | .eReset => passRows
  | .eSearch => passRows - 1
  | .eRdId => 3 * (64 - s.n.toNat) + 4
  | .eRdCmp => 3 * (64 - s.n.toNat) + 3
  | .eWrDir => 3 * (64 - s.n.toNat) + 2
  | .eFinish | .pRun _ => 1

section
variable {s t : State}

theorem rowsLeft_eq_zero : rowsLeft s = 0 ↔ s.phase = .idle := by
  unfold rowsLeft
  cases s.phase <;> simp [passRows]

theorem rowsLeft_idle (h : t.phase = .idle) (hi : s.phase ≠ .idle) : rowsLeft t < rowsLeft s := by
  rw [rowsLeft_eq_zero.2 h]
  exact Nat.pos_of_ne_zero (mt rowsLeft_eq_zero.1 hi)

theorem PassStep.rowsLeft_lt (hstep : PassStep s t) (hi : s.phase ≠ .idle) : rowsLeft t < rowsLeft s := by
  cases hstep with
  | failed | found => exact rowsLeft_idle rfl hi
  | present hp | searching hp | idRead hp | chosen d hp => simp [rowsLeft, hp, passRows, startRounds]
  | sent hp =>
    by_cases hn : s.n < 64#7
    · have hnext : (s.n + 1#7).toNat = s.n.toNat + 1 := by bv_omega
      have hlt : s.n.toNat < 64 := by bv_omega
      simp only [rowsLeft, enterPhase_phase, if_pos hn, enterPhase_n, nextPosition_n, afterPrim_n, hnext, hp]
      omega
    · simp [rowsLeft, hp, hn]

theorem runPrimRow_idle (p : Prim) (s : State) : (runPrimRow p s).phase = .idle := by
  unfold runPrimRow
  split
  · cases p <;> rfl
  · rfl

theorem runRow_rowsLeft_lt (hi : s.phase ≠ .idle) (hr : runRow s = .next t) : rowsLeft t < rowsLeft s := by
  rcases runRow_cases hi hr with ⟨p, -, rfl⟩ | ⟨-, hstep⟩
  · exact rowsLeft_idle (runPrimRow_idle p s) hi
  · exact hstep.rowsLeft_lt hi

/-- The reset input ends a command at once, a row brings it nearer to its end. -/
theorem sequencerStep_rowsLeft_lt (hi : s.phase ≠ .idle) (hr : sequencerStep s = .next t) :
    rowsLeft t < rowsLeft s := by
  rcases sequencerStep_cases hr with ⟨rest, rfl⟩ | ⟨rest, hrow⟩
  · exact rowsLeft_idle rfl hi
  · exact runRow_rowsLeft_lt (s := { s with arrivals := rest }) hi hrow

/-- A run with rows enough ends in IDLE, whatever arrives meanwhile. -/
theorem runToIdle_ends_idle {rows : Nat} {s : State} (hrows : rowsLeft s ≤ rows)
    (hr : runToIdle rows s = .next t) : t.phase = .idle := by
  induction rows generalizing s with
  | zero => cases hr; exact rowsLeft_eq_zero.1 (Nat.le_zero.1 hrows)
  | succ rows ih =>
    by_cases hi : s.phase = .idle
    · rw [runToIdle_idle _ hi] at hr
      cases hr
      exact hi
    · unfold runToIdle at hr
      rw [if_neg (mt (isIdle_eq_true _).1 hi)] at hr
      split at hr
      · rename_i u hu
        have hlt := sequencerStep_rowsLeft_lt hi hu
        exact ih (by omega) hr
      · cases hr
      · cases hr

end

/-- Settles O50, by the number of rows left: a command of one primitive has one, a pass at most `passRows`. -/
theorem everyCommandEndsInIdle : Obligations.EveryCommandEndsInIdle := by
  intro s t i hc hr
  obtain ⟨-, hcases⟩ := exec_command_cases hc hr
  rcases hcases with ⟨p, hrun, -⟩ | ⟨-, -, rfl⟩ | ⟨-, -, hrun⟩ | ⟨-, rfl⟩ | ⟨c, -, rfl⟩
  · exact runToIdle_ends_idle (s := enterPhase (.pRun p) s) le_rfl hrun
  · rfl
  · exact runToIdle_ends_idle (s := enterPhase .eReset s) le_rfl hrun
  · rfl
  · rfl

end Sys2Proof.Machine
end

section
/-! What an undisturbed command writes (spec/10_state.md R30 to R37): the outcome of each host command as the state it
ends in, and from it the writers of each register and the legal RESULT. -/

namespace Sys2Proof.Machine

/-! ### RESULT and CMD bytes -/

theorem resultFound_resultByte (c : Code) (found ppd sd : Bool) : resultFound (resultByte c found ppd sd) = found := by
  cases c <;> revert found ppd sd <;> decide

theorem resultCode_resultByte (c : Code) (found ppd sd : Bool) :
    resultCode (resultByte c found ppd sd) = 0x0#4 ↔ c = .ok := by
  cases c <;> revert found ppd sd <;> decide

theorem getLsbD_seven_resultByte (c : Code) (found ppd sd : Bool) :
    (resultByte c found ppd sd).getLsbD 7 = false := by
  cases c <;> revert found ppd sd <;> decide

/-- The byte a command is read from is the byte it is written as. -/
theorem eq_of_decodeCmd {c b : Byte} {i : Instr} (hi : decodeCmd c = i) (hb : encode Params.default i = [b]) :
    c = b := by
  subst hi
  unfold decodeCmd at hb
  repeat' split at hb
  all_goals simpa [encode, *] using hb

/-! ### The row P_RUN -/

/-- What neither the row P_RUN nor an illegal command writes: the search state, ROM and ID_OUT. -/
structure SearchKept (s t : State) : Prop where
  ld : t.ld = s.ld
  lfd : t.lfd = s.lfd
  exh : t.exh = s.exh
  rom : t.rom = s.rom
  romWritten : t.romWritten = s.romWritten
  idOut : t.idOut = s.idOut
  idWritten : t.idWritten = s.idWritten

theorem runPrimRow_searchKept (p : Prim) (s : State) : SearchKept s (runPrimRow p s) := by
  unfold runPrimRow
  split
  · cases p <;> constructor <;> rfl
  · constructor <;> rfl

/-- DATA is written by a completed read only. -/
theorem runPrimRow_data (p : Prim) (s : State) :
    ((runPrimRow p s).data = s.data ∧ (runPrimRow p s).dataWritten = s.dataWritten) ∨
      ((p = .readBit ∨ p = .readByte) ∧ (runPrimRow p s).result = 0x00#8) := by
  unfold runPrimRow
  split
  · cases p with
    | reset | writeBit | writeByte => exact .inl ⟨rfl, rfl⟩
    | readBit => exact .inr ⟨.inl rfl, rfl⟩
    | readByte => exact .inr ⟨.inr rfl, rfl⟩
  · exact .inl ⟨rfl, rfl⟩

theorem runPrimRow_result (p : Prim) (s : State) :
    ∃ c ppd sd, (runPrimRow p s).result = resultByte c false ppd sd := by
  unfold runPrimRow
  split
  · cases p <;> exact ⟨_, _, _, rfl⟩
  · exact ⟨_, _, _, rfl⟩

/-! ### A whole pass -/

section
variable {s t : State}

theorem PassStep.data (hstep : PassStep s t) : t.data = s.data ∧ t.dataWritten = s.dataWritten := by
  cases hstep with
  | failed c ppd sd hc hdata hmark => exact ⟨hdata, hmark⟩
  | present | searching | idRead | chosen | sent | found => exact ⟨rfl, rfl⟩

/-- RESULT as `ENUM_NEXT` reports it: FOUND exactly beside OK (spec/10_state.md R33). -/
def enumReported (s : State) : Prop :=
  ∃ c found ppd sd, s.result = resultByte c found ppd sd ∧ (found = true ↔ c = .ok)

/-- A row of a pass goes on in it, or ends it with a report. -/
theorem PassStep.inPass_or_reported (hstep : PassStep s t) :
    inPass t.phase = true ∨ (t.phase = .idle ∧ enumReported t) := by
  cases hstep with
  | failed c ppd sd hc => exact .inr ⟨rfl, c, false, ppd, sd, rfl, by simp [hc]⟩
  | found => exact .inr ⟨rfl, .ok, true, true, false, rfl, by simp⟩
  | present | searching | idRead | chosen => exact .inl rfl
  | sent =>
    rw [enterPhase_phase]
    split
    · exact .inl rfl
    · exact .inl rfl

/-- A pass under way or just ended, begun with the DATA of `s` and nothing arriving. -/
structure DuringPass (s u : State) : Prop where
  quiet : u.arrivals = []
  data : u.data = s.data
  mark : u.dataWritten = s.dataWritten
  stands : inPass u.phase = true ∨ (u.phase = .idle ∧ enumReported u)

theorem DuringPass.kept {u v : State} (h : DuringPass s u) (hr : sequencerStep u = .next v) :
    DuringPass s v := by
  rw [sequencerStep_quiet h.quiet] at hr
  rcases h.stands with hp | ⟨hi, -⟩
  · rcases runRow_cases (by intro hi; simp [hi, inPass] at hp) hr with ⟨p, hrun, -⟩ | ⟨-, hstep⟩
    · simp [hrun, inPass] at hp
    · exact { quiet := (runRow_frame hr).arrivals.trans h.quiet
              data := hstep.data.1.trans h.data
              mark := hstep.data.2.trans h.mark
              stands := hstep.inPass_or_reported }
  · unfold runRow at hr
    rw [hi] at hr
    cases hr
    exact h

/-- A whole pass leaves DATA alone and reports its outcome. -/
theorem pass_ends (ha : s.arrivals = []) (hr : runToIdle passRows (enterPhase .eReset s) = .next t) :
    t.data = s.data ∧ t.dataWritten = s.dataWritten ∧ enumReported t := by
  have hstart : DuringPass s (enterPhase .eReset s) :=
    { quiet := ha, data := rfl, mark := rfl, stands := .inl rfl }
  have hpass : DuringPass s t := runToIdle_keeps (fun _ _ => DuringPass.kept) hstart hr
  have hidle : t.phase = .idle := runToIdle_ends_idle (s := enterPhase .eReset s) le_rfl hr
  refine ⟨hpass.data, hpass.mark, ?_⟩
  rcases hpass.stands with hp | ⟨-, hrep⟩
  · simp [hidle, inPass] at hp
  · exact hrep

end

/-! ### Commands -/

/-- The primitive a command issues, if it is one of the five that expose them (spec/40_bus_primitives.md R112 to
R116). -/
def commandedPrim (s : State) : Instr → Option Prim
  | .owReset => some .reset
  | .owWriteBit => some (.writeBit (s.arg.getLsbD 0))
  | .owReadBit => some .readBit
  | .owWriteByte => some (.writeByte s.arg)
  | .owReadByte => some .readByte
  | .enumNext | .searchReset | .illegal _ => none
  | .brSetReadPointer _ | .br1wReset | .br1wSingleBit _ | .br1wWriteByte _ | .br1wReadByte | .busSearchRom => none

/-- Where a host command that goes through ends, with nothing arriving. -/
inductive CommandEnd (s : State) : Instr → State → Prop where
  | prim {i : Instr} {p : Prim} (hp : commandedPrim s i = some p) : CommandEnd s i (runPrimRow p s)
  | exhausted : CommandEnd s .enumNext (complete .exhausted false false false (clearSearch s))
  | pass {t : State} (hrun : runToIdle passRows (enterPhase .eReset s) = .next t) : CommandEnd s .enumNext t
  | searchReset : CommandEnd s .searchReset (complete .ok false false false (clearSearch s))
  | illegal (c : Byte) : CommandEnd s (.illegal c) (complete .illegalCmd false false false s)

section
variable {s t : State} {i : Instr}

theorem commandEnd_of_exec (hi : s.phase = .idle) (ha : s.arrivals = []) (hc : portOf i = .cmd)
    (hr : exec i s = .next t) : CommandEnd s i t := by
  have hsync := busSync_of_exec hi hr
  cases i with
  | owReset => rw [exec_owReset hi ha] at hr; cases hr; exact .prim rfl
  | owWriteBit => rw [exec_owWriteBit hi ha (hsync (by simp))] at hr; cases hr; exact .prim rfl
  | owReadBit => rw [exec_owReadBit hi ha (hsync (by simp))] at hr; cases hr; exact .prim rfl
  | owWriteByte => rw [exec_owWriteByte hi ha (hsync (by simp))] at hr; cases hr; exact .prim rfl
  | owReadByte => rw [exec_owReadByte hi ha (hsync (by simp))] at hr; cases hr; exact .prim rfl
  | enumNext =>
    rw [exec_enumNext hi] at hr
    split at hr
    · cases hr; exact .exhausted
    · exact .pass hr
  | searchReset => rw [exec_searchReset hi] at hr; cases hr; exact .searchReset
  | illegal c => rw [exec_illegal c hi] at hr; cases hr; exact .illegal c
  | brSetReadPointer | br1wReset | br1wSingleBit | br1wWriteByte | br1wReadByte | busSearchRom => simp [portOf] at hc

/-- Which registers an undisturbed command `i` may write, and what it reports. -/
structure CommandWrites (i : Instr) (s t : State) : Prop where
  frame : RowFrame s t
  data : t.data ≠ s.data ∨ t.dataWritten ≠ s.dataWritten → (i = .owReadBit ∨ i = .owReadByte) ∧ t.result = 0x00#8
  search : t.ld ≠ s.ld ∨ t.lfd ≠ s.lfd ∨ t.exh ≠ s.exh → i = .enumNext ∨ i = .searchReset
  ident : t.rom ≠ s.rom ∨ t.romWritten ≠ s.romWritten ∨ t.idOut ≠ s.idOut ∨ t.idWritten ≠ s.idWritten → i = .enumNext
  result : ∃ c found ppd sd, t.result = resultByte c found ppd sd ∧ (found = true ↔ i = .enumNext ∧ c = .ok)

theorem commandWrites_runPrimRow {p : Prim} (hp : commandedPrim s i = some p) :
    CommandWrites i s (runPrimRow p s) := by
  have hkept := runPrimRow_searchKept p s
  obtain ⟨c, ppd, sd, hres⟩ := runPrimRow_result p s
  have hread : p = .readBit ∨ p = .readByte → i = .owReadBit ∨ i = .owReadByte := by
    rintro (rfl | rfl) <;> cases i <;> simp [commandedPrim] at hp ⊢
  have hnot : i ≠ .enumNext := by
    rintro rfl
    simp [commandedPrim] at hp
  exact
    { frame := runPrimRow_frame p s
      data := fun hne => by
        rcases runPrimRow_data p s with ⟨hdata, hmark⟩ | ⟨hp', hok⟩
        · simp [hdata, hmark] at hne
        · exact ⟨hread hp', hok⟩
      search := by simp [hkept.ld, hkept.lfd, hkept.exh]
      ident := by simp [hkept.rom, hkept.romWritten, hkept.idOut, hkept.idWritten]
      result := ⟨c, false, ppd, sd, hres, by simp [hnot]⟩ }

theorem CommandEnd.writes (h : CommandEnd s i t) (ha : s.arrivals = []) : CommandWrites i s t := by
  cases h with
  | prim hp => exact commandWrites_runPrimRow hp
  | exhausted =>
    exact { frame := by constructor <;> rfl, data := by simp, search := by simp, ident := by simp
            result := ⟨.exhausted, false, false, false, rfl, by simp⟩ }
  | pass hrun =>
    obtain ⟨hdata, hmark, c, found, ppd, sd, hres, hfound⟩ := pass_ends ha hrun
    have hframe : RowFrame (enterPhase .eReset s) t := runToIdle_frame ha hrun
    exact { frame := { hframe with }, data := by simp [hdata, hmark], search := by simp, ident := by simp
            result := ⟨c, found, ppd, sd, hres, by simpa using hfound⟩ }
  | searchReset =>
    exact { frame := by constructor <;> rfl, data := by simp, search := by simp, ident := by simp
            result := ⟨.ok, false, false, false, rfl, by simp⟩ }
  | illegal c =>
    exact { frame := by constructor <;> rfl, data := by simp, search := by simp, ident := by simp
            result := ⟨.illegalCmd, false, false, false, rfl, by simp⟩ }

theorem commandWrites_of_exec (hi : s.phase = .idle) (ha : s.arrivals = []) (hc : portOf i = .cmd)
    (hr : exec i s = .next t) : CommandWrites i s t :=
  (commandEnd_of_exec hi ha hc hr).writes ha

end

/-! ### Steps -/

/-- Settles O6: the access is a write to CMD, so its turn is the command. -/
theorem stepRunsTheCommandWritten : Obligations.StepRunsTheCommandWritten := by
  intro s c rest hquiet hhost
  obtain ⟨hi, ha⟩ := hquiet
  rw [step_access hi ha hhost]
  simp [hostAccess, finishTurn]

/-- Settles O51, by the host's next access: a command writes what `CommandWrites` allows, an ARG write ARG alone. -/
theorem registersHaveOnlyTheirWriters : Obligations.RegistersHaveOnlyTheirWriters := by
  intro s t hquiet hstep
  obtain ⟨hi, ha⟩ := hquiet
  cases hhost : s.host with
  | nil =>
    rw [step_waits hi ha hhost] at hstep
    cases hstep
    simp
  | cons x rest =>
    rw [step_access hi ha hhost] at hstep
    rcases finishTurn_hostAccess_cases hstep with ⟨c, rfl, hexec⟩ | ⟨v, rfl, rfl⟩ | ⟨seen, rfl⟩
    · have hw := commandWrites_of_exec (s := { s with host := rest }) hi ha (portOf_decodeCmd c) hexec
      refine ⟨hw.frame.params, fun hne => absurd hw.frame.arg hne, fun hne => ?_, fun hne => ?_, fun hne => ?_,
        fun _ => ⟨c, rest, rfl⟩⟩
      · obtain ⟨hread, hok⟩ := hw.data hne
        exact ⟨⟨c, rest, rfl, hread.imp (eq_of_decodeCmd · rfl) (eq_of_decodeCmd · rfl)⟩, hok⟩
      · exact ⟨c, rest, rfl, (hw.search hne).imp (eq_of_decodeCmd · rfl) (eq_of_decodeCmd · rfl)⟩
      · exact ⟨rest, by rw [eq_of_decodeCmd (hw.ident hne) rfl]⟩
    · simp
    · simp

/-- Settles O52, by the form of RESULT that every command reports. -/
theorem foundMeansEnumNextOk : Obligations.FoundMeansEnumNextOk := by
  intro s t c rest hquiet hhost hstep
  rw [stepRunsTheCommandWritten s c rest hquiet hhost] at hstep
  obtain ⟨hi, ha⟩ := hquiet
  have hw := commandWrites_of_exec (s := { s with host := rest }) hi ha (portOf_decodeCmd c) hstep
  obtain ⟨code, found, ppd, sd, hres, hfound⟩ := hw.result
  have hcmd : decodeCmd c = .enumNext ↔ c = 0x10#8 := ⟨(eq_of_decodeCmd · rfl), fun h => by subst h; rfl⟩
  rw [hres, resultFound_resultByte, resultCode_resultByte, ← hcmd]
  exact ⟨hfound, getLsbD_seven_resultByte code found ppd sd⟩

end Sys2Proof.Machine
end

section
/-! Several controllers (spec/10_state.md R40): a step of one is its own step, written back in its place. -/

namespace Sys2Proof.Machine

theorem stepInstance_cases {k : Nat} {ms ms' : List State} (h : stepInstance k ms = .next ms') :
    (ms[k]? = none ∧ ms' = ms) ∨ ∃ s t, ms[k]? = some s ∧ step s = .next t ∧ ms' = ms.set k t := by
  unfold stepInstance at h
  split at h
  · rename_i hk
    cases h
    exact .inl ⟨hk, rfl⟩
  · rename_i s hk
    split at h
    · rename_i t ht
      cases h
      exact .inr ⟨s, t, hk, ht, rfl⟩
    · cases h
    · cases h

/-- Settles O53: the list changes at `k` alone, and to the next state of that controller's own step. -/
theorem instancesShareNothing : Obligations.InstancesShareNothing := by
  intro k ms ms' h
  rcases stepInstance_cases h with ⟨hk, rfl⟩ | ⟨s, t, hk, ht, rfl⟩
  · exact ⟨rfl, fun _ _ => rfl, fun s hs => by rw [hk] at hs; cases hs⟩
  · obtain ⟨hlt, -⟩ := List.getElem?_eq_some_iff.1 hk
    refine ⟨List.length_set, fun j hj => List.getElem?_set_ne hj.symm, fun u hu => ⟨t, ?_, ?_⟩⟩
    · rw [hk] at hu
      cases hu
      exact ht
    · exact List.getElem?_set_self hlt

end Sys2Proof.Machine
end

section
/-! A failed primitive stops at once (spec/40_bus_primitives.md R102, R110): the parts of a primitive heed their
answers, so the whole primitive does. -/

namespace Sys2Proof.Machine

/-- A part that makes no call heeds its answers. -/
theorem Heeds.pure {α : Type} (status : Call) (a : α) (e : Env) : Heeds status e (.ok a, e) [] where
  made := by simp
  fails := fun _ _ _ hl => absurd hl (Nat.not_lt_zero _)
  used := fun _ => rfl
  lastFail := fun h => nomatch h
  lastBusy := fun h => nomatch h

/-- The primitives whose result is in the status byte heed what they do between the waits. -/
theorem statusResult_heeds (P : Params) (i : Instr) (e : Env) :
    ∃ calls, Heeds (.sendRecv (encode P (.brSetReadPointer .status))) e
      (statusResult (sendBetweenWaits P i e)) calls := by
  obtain ⟨calls, h⟩ := sendBetweenWaits_heeds P i e
  exact resThen_heeds h fun st e' => ⟨[], Heeds.pure _ (valueOfStatus st) e'⟩

theorem primTransactions_heeds (P : Params) (p : Prim) (e : Env) :
    ∃ calls, Heeds (.sendRecv (encode P (.brSetReadPointer .status))) e (primTransactions P p e) calls := by
  cases p with
  | reset | writeBit | readBit | writeByte => exact statusResult_heeds P _ e
  | readByte =>
    obtain ⟨calls, h⟩ := sendBetweenWaits_heeds P .br1wReadByte e
    rw [primTransactions]
    exact resThen_heeds h fun _ e1 => resThen_heeds (judgeReply_heeds _ _ e1) fun _ e2 =>
      resThen_heeds (judgeReply_heeds _ _ e2) fun _ e3 => ⟨[], Heeds.pure _ _ e3⟩

/-- At level T a primitive heeds its answers; the record that it was issued is no call. -/
theorem primRun_heeds (P : Params) (p : Prim) {e : Env} (hl : e.level = .transactions) :
    ∃ calls, Heeds (.sendRecv (encode P (.brSetReadPointer .status))) e (primRun P p e) calls := by
  obtain ⟨calls, h⟩ := primTransactions_heeds P p { e with log := .prim p :: e.log }
  obtain ⟨all, hall⟩ := resThen_heeds h fun v e' => ⟨[], Heeds.pure _ (reported p v) e'⟩
  have hrun : primRun P p e = resThen (primTransactions P p { e with log := .prim p :: e.log })
      fun v e1 => (.ok (reported p v), e1) := by
    unfold primRun primRaw
    simp only [hl]
  rw [hrun]
  exact ⟨all, hall.made, hall.fails, hall.used, hall.lastFail, hall.lastBusy⟩

/-- Settles O22: a primitive heeds its answers, and its log fixes which calls it made. -/
theorem failedPrimitiveStopsAtOnce : Obligations.FailedPrimitiveStopsAtOnce := by
  intro P e p hl
  obtain ⟨calls, h⟩ := primRun_heeds P p hl
  refine ⟨fun pre rest calls' he hmade hlt => ?_, fun herr => ?_, fun herr => ?_⟩
  · have hcalls : calls' = calls := List.append_cancel_left (hmade.symm.trans h.made)
    rw [hcalls] at hlt ⊢
    exact h.fails pre rest he hlt
  · obtain ⟨hreply, hne⟩ := h.lastFail herr
    refine ⟨hreply, calls.dropLast, calls.getLast hne, ?_⟩
    rw [h.made, List.append_assoc, List.dropLast_append_getLast]
  · obtain ⟨hbusy, before, hlast⟩ := h.lastBusy herr
    refine ⟨hbusy, before, ?_⟩
    rw [h.made, hlast, List.append_assoc]
    rfl

end Sys2Proof.Machine
end

section
/-! The reference bus (spec/20_memory.md R66 to R68): what its devices answer at each point of the pattern of a
search, and the slots that none of them answers. -/

namespace Sys2Proof.Machine

/-! ### The pattern of R67 -/

section
variable {b : RefBus} {q : Nat}

theorem busAnswer_searchCommand (P : Params) (free : PrimValue) (hm : b.mode = .afterReset) :
    busAnswer P (.writeByte P.searchCmd) b free = (free, { b with mode := .search 1 0 }) := by
  simp [busAnswer, hm]

theorem busAnswer_firstRead (P : Params) (free : PrimValue) (hm : b.mode = .search q 0) :
    busAnswer P .readBit b free = (bitValue (wiredAnd b.live (q - 1)), { b with mode := .search q 1 }) := by
  simp [busAnswer, hm]

theorem busAnswer_secondRead (P : Params) (free : PrimValue) (hm : b.mode = .search q 1) :
    busAnswer P .readBit b free = (bitValue (wiredAndNot b.live (q - 1)), { b with mode := .search q 2 }) := by
  simp [busAnswer, hm]

theorem busAnswer_narrows (P : Params) (v : Bool) (free : PrimValue) {r : Nat} (hm : b.mode = .search q r) :
    busAnswer P (.writeBit v) b free = (free, narrow q v b) := by
  simp [busAnswer, hm]

end

/-- A fault laid over the next primitive ends it with that error and is used up (R67.5). -/
theorem primRun_overlaid (P : Params) (p : Prim) {e : Env} {x : BusError} {rest : List (Option BusError)}
    (hl : e.level = .reference) (ho : e.bus.overlay = some x :: rest) :
    primRun P p e = (.err x, { e with
      log := .prim p :: e.log, draws := e.draws + 1
      bus := { e.bus with overlay := rest, mode := .offPattern } }) := by
  unfold primRun primRaw primReference
  simp only [hl, ho]
  rfl

/-- Settles O40, by the devices' answer at each point of the pattern. -/
theorem referenceBusFollowsR67 : Obligations.ReferenceBusFollowsR67 := by
  intro P e hl ho
  have hrun := fun p => primRun_reference P p hl ho
  refine ⟨?reset, fun hm => ?command, fun q hm => ?first, fun q hm => ?second, fun q r v hm => ?write,
    fun p => ?completes, fun p x rest => ?overlaid⟩
  case reset =>
    rw [hrun]
    refine ⟨?_, rfl⟩
    cases hd : e.bus.devices <;> simp [busAnswer, reported, hd]
  case command =>
    rw [hrun, busAnswer_searchCommand P _ hm]
    exact ⟨⟨_, rfl⟩, rfl⟩
  case first =>
    rw [hrun, busAnswer_firstRead P _ hm]
    exact ⟨⟨_, rfl, wiredAnd_eq_true _ _⟩, rfl⟩
  case second =>
    rw [hrun, busAnswer_secondRead P _ hm]
    exact ⟨⟨_, rfl, wiredAndNot_eq_true _ _⟩, rfl⟩
  case write =>
    rw [hrun, busAnswer_narrows P v _ hm]
    exact ⟨⟨_, rfl⟩, mem_narrow q v e.bus, fun hq => if_pos hq⟩
  case completes =>
    rw [hrun]
    exact ⟨_, rfl⟩
  case overlaid =>
    have hfault := primRun_overlaid P p (e := { e with bus.overlay := some x :: rest }) hl rfl
    exact ⟨congrArg Prod.fst hfault, congrArg (·.2.bus.overlay) hfault⟩

/-! ### The three answers of a round (R68) -/

theorem wiredAnd_eq_false {live : List Ident} {k : Nat} {d : Ident} (hd : d ∈ live) (hk : d.getLsbD k = false) :
    wiredAnd live k = false :=
  List.all_eq_false.2 ⟨d, hd, by simp [hk]⟩

theorem wiredAndNot_eq_false {live : List Ident} {k : Nat} {d : Ident} (hd : d ∈ live) (hk : d.getLsbD k = true) :
    wiredAndNot live k = false :=
  List.all_eq_false.2 ⟨d, hd, by simp [hk]⟩

/-- Settles O41: one device with a 0 pulls the first read down, one with a 1 the second. -/
theorem wiredAndAnswersByLiveSet : Obligations.WiredAndAnswersByLiveSet := by
  intro live k
  refine ⟨fun hnone => ?_, fun b hsome hagree => ?_, fun d hd d' hd' h1 h0 => ?_⟩
  · subst hnone
    exact ⟨rfl, rfl⟩
  · obtain ⟨d, hd⟩ := List.exists_mem_of_ne_nil live hsome
    cases b with
    | false => exact ⟨wiredAnd_eq_false hd (hagree d hd), (wiredAndNot_eq_true live k).2 hagree⟩
    | true => exact ⟨(wiredAnd_eq_true live k).2 hagree, wiredAndNot_eq_false hd (hagree d hd)⟩
  · exact ⟨wiredAnd_eq_false hd' h0, wiredAndNot_eq_false hd h1⟩

/-! ### Slots that no device answers (R66) -/

section
variable {b : RefBus}

theorem silent_of_noDevice (h : b.devices = []) : silent b = true := by
  simp [silent, h]

theorem silent_of_noneLive {p r : Nat} (hlive : b.live = []) (hm : b.mode = .search p r) : silent b = true := by
  simp [silent, hlive, hm]

theorem offPattern_silent (free : PrimValue) (h : silent b = true) : (offPattern b free).1 = unanswered free :=
  if_pos h

/-- A bit read that no device answers is 1: by the wired AND of none within the pattern, by silence outside it. -/
theorem busAnswer_readBit_silent (P : Params) (free : PrimValue) (hlive : b.live = []) (h : silent b = true) :
    (busAnswer P .readBit b free).1.bit = true := by
  have hoff : (offPattern b free).1.bit = true := by rw [offPattern_silent free h]; rfl
  cases hm : b.mode with
  | offPattern | afterReset => simpa [busAnswer, hm] using hoff
  | search q r =>
    match r with
    | 0 => rw [busAnswer_firstRead P free hm, hlive]; rfl
    | 1 => rw [busAnswer_secondRead P free hm, hlive]; rfl
    | r + 2 => simpa [busAnswer, hm] using hoff

theorem busAnswer_readByte_silent (P : Params) (free : PrimValue) (h : silent b = true) :
    (busAnswer P .readByte b free).1.byte = 0xFF#8 := by
  rw [busAnswer, offPattern_silent free h]
  rfl

end

/-- The two reading primitives where no device answers. -/
theorem primRun_reads_silent (P : Params) {e : Env} (hl : e.level = .reference) (ho : e.bus.overlay = [])
    (hlive : e.bus.live = []) (h : silent e.bus = true) :
    (primRun P .readBit e).1 = .ok { presence := false, short := false, bit := true, byte := 0x00#8 } ∧
      (primRun P .readByte e).1 = .ok { presence := false, short := false, bit := false, byte := 0xFF#8 } := by
  rw [primRun_reference P .readBit hl ho, primRun_reference P .readByte hl ho]
  simp only [reported, busAnswer_readBit_silent P _ hlive h, busAnswer_readByte_silent P _ h, and_self]

/-- Settles O55: with no device, or none live in search mode, the bus is silent, and a read command reports the ones. -/
theorem unansweredSlotsReadAsOnes : Obligations.UnansweredSlotsReadAsOnes := by
  refine ⟨fun P e hl ho hsub hnone => ?_, fun s hquiet hsync hl ho hdev hlive => ?_⟩
  · rcases hnone with hdev | ⟨hlive, p, r, hm⟩
    · have hlive : e.bus.live = [] := List.eq_nil_iff_forall_not_mem.2 fun d hd => by simpa [hdev] using hsub d hd
      exact primRun_reads_silent P hl ho hlive (silent_of_noDevice hdev)
    · exact primRun_reads_silent P hl ho hlive (silent_of_noneLive hlive hm)
  · obtain ⟨hi, ha⟩ := hquiet
    obtain ⟨hbit, hbyte⟩ := primRun_reads_silent s.params hl ho hlive (silent_of_noDevice hdev)
    rw [exec_owReadBit hi ha hsync, exec_owReadByte hi ha hsync, runPrimRow_ok hbit, runPrimRow_ok hbyte]
    exact ⟨⟨_, rfl, rfl, rfl, rfl⟩, ⟨_, rfl, rfl, rfl, rfl⟩⟩

end Sys2Proof.Machine
end

section
/-! The host's register space (spec/20_memory.md R56 to R58): what is at each address, and what a read and a write
do in a step. -/

namespace Sys2Proof.Machine

/-! ### The register map -/

/-- From 0x08 on: ID_OUT0 to ID_OUT7, then the reserved addresses. -/
theorem peek_from_eight {a : Byte} (s : State) (h : 8 ≤ a.toNat) :
    peek a s = if a.toNat ≤ 15 then (if s.idWritten then some (idByte s.idOut (a.toNat - 8)) else none)
      else some 0x00#8 := by
  have hne : ∀ c : Byte, c.toNat < 8 → a ≠ c := by
    rintro c hc rfl
    omega
  unfold peek
  iterate 7 rw [if_neg (hne _ (by decide))]
  simp only [h, true_and]

theorem peek_idOut {a : Byte} (s : State) (hlo : 8 ≤ a.toNat) (hhi : a.toNat ≤ 15) :
    peek a s = if s.idWritten then some (idByte s.idOut (a.toNat - 8)) else none := by
  rw [peek_from_eight s hlo, if_pos hhi]

/-- CMD and the reserved addresses. -/
theorem peek_reserved {a : Byte} (s : State) (h : a = 0x00#8 ∨ a = 0x07#8 ∨ 0x10#8 ≤ a) :
    peek a s = some 0x00#8 := by
  rcases h with rfl | rfl | hhi
  · rfl
  · rfl
  · have hhi : 16 ≤ a.toNat := hhi
    rw [peek_from_eight s (by omega), if_neg (by omega)]

/-- The registers without a value (spec/10_state.md R38). -/
theorem peek_unwritten {a : Byte} {s : State}
    (h : (a = 0x03#8 ∧ s.dataWritten = false) ∨ (0x08#8 ≤ a ∧ a ≤ 0x0F#8 ∧ s.idWritten = false)) :
    peek a s = none := by
  rcases h with ⟨rfl, hdata⟩ | ⟨hlo, hhi, hid⟩
  · simp [peek, hdata]
  · rw [peek_idOut s hlo hhi, hid]
    rfl

/-! ### Steps -/

section
variable {s : State} {a v : Byte} {rest : List HostAccess}

theorem step_read (hquiet : undisturbed s) (hhost : s.host = .read a :: rest) :
    step s = hostRead a { s with host := rest } :=
  step_access hquiet.1 hquiet.2 hhost

/-- A read of a register that has a value changes the host's record alone. -/
theorem step_read_value (hquiet : undisturbed s) (hhost : s.host = .read a :: rest) (hv : peek a s = some v) :
    step s = .next { s with host := rest, seen := (a, v) :: s.seen } := by
  have hv' : peek a { s with host := rest } = some v := hv
  rw [step_read hquiet hhost, hostRead, hv']

theorem step_read_unwritten (hquiet : undisturbed s) (hhost : s.host = .read a :: rest) (hv : peek a s = none) :
    step s = .fault .unwrittenRead := by
  have hv' : peek a { s with host := rest } = none := hv
  rw [step_read hquiet hhost, hostRead, hv']

/-- A write to any address but CMD. -/
theorem step_store (hquiet : undisturbed s) (hhost : s.host = .write a v :: rest) (h0 : a ≠ 0x00#8) :
    step s = .next (hostStore a v { s with host := rest }) := by
  rw [step_access hquiet.1 hquiet.2 hhost, hostAccess, if_neg h0]
  rfl

end

/-- Settles O7, by the access and what is at its address. -/
theorem hostAccessSideEffects : Obligations.HostAccessSideEffects := by
  intro s rest hquiet
  refine ⟨fun c hhost => stepRunsTheCommandWritten s c rest hquiet hhost, fun v hhost => ?_,
    fun a v h0 h1 hhost => ?_, fun a hhost => ?_,
    fun a hhost hres => step_read_value hquiet hhost (peek_reserved s hres),
    fun a hhost hun => step_read_unwritten hquiet hhost (peek_unwritten hun)⟩
  · rw [step_store hquiet hhost (by decide), hostStore, if_pos rfl]
  · rw [step_store hquiet hhost h0, hostStore, if_neg h1]
  · cases hv : peek a s with
    | some v => exact .inl ⟨v, step_read_value hquiet hhost hv⟩
    | none => exact .inr (step_read_unwritten hquiet hhost hv)

/-- Settles O8: each clause is the register map at its address. -/
theorem hostReadsFollowRegisterMap : Obligations.HostReadsFollowRegisterMap := by
  intro s rest a hquiet hhost
  have hread : ∀ v, peek a s = some v → step s = .next { s with host := rest, seen := (a, v) :: s.seen } :=
    fun v hv => step_read_value hquiet hhost hv
  refine ⟨fun ha => hread _ ?arg, fun ha => hread _ ?result, fun ha hw => hread _ ?data, fun ha => hread _ ?ld,
    fun ha => hread _ ?lfd, fun ha => hread _ ?flags, fun i hi ha hw => hread _ ?idOut⟩
  case arg | result | ld | lfd => subst ha; rfl
  case data => subst ha; simp [peek, hw]
  case flags =>
    subst ha
    cases hs : s.busSync <;> cases hx : s.exh <;> simp [peek, statusFlags, flagByte, hs, hx]
  case idOut =>
    have hnat : a.toNat = 8 + i := by rw [ha, BitVec.toNat_ofNat]; omega
    rw [peek_idOut s (by omega) (by omega), if_pos hw, hnat, Nat.add_sub_cancel_left]
    rfl

end Sys2Proof.Machine
end

section
/-! Reading and writing the encodings (spec/30_encoding.md R80 to R94): what is read is what was written, part by part
and then at every port, in both directions. -/

namespace Sys2Proof.Machine

/-! ### CMD bytes -/

theorem mem_commandBytes {c : Byte} : c ∈ commandBytes ↔ c = 0x01#8 ∨ c = 0x02#8 ∨ c = 0x03#8 ∨ c = 0x04#8 ∨
    c = 0x05#8 ∨ c = 0x10#8 ∨ c = 0x11#8 := by
  simp [commandBytes]

theorem wf_illegal {c : Byte} : (Instr.illegal c).wf = true ↔ c ∉ commandBytes := by
  simp [Instr.wf]

/-- Exactly the bytes outside R81 read as illegal commands. -/
theorem decodeCmd_eq_illegal_iff {c : Byte} : decodeCmd c = .illegal c ↔ c ∉ commandBytes := by
  rw [mem_commandBytes]
  constructor
  · rintro h (rfl | rfl | rfl | rfl | rfl | rfl | rfl) <;> cases h
  · intro h
    push Not at h
    simp [decodeCmd, h]

/-- A byte written to CMD reads as a well-formed command with that byte. -/
theorem encode_decodeCmd (P : Params) (c : Byte) : encode P (decodeCmd c) = [c] ∧ (decodeCmd c).wf = true := by
  by_cases h : c ∈ commandBytes
  · rcases mem_commandBytes.1 h with rfl | rfl | rfl | rfl | rfl | rfl | rfl <;> exact ⟨rfl, rfl⟩
  · rw [decodeCmd_eq_illegal_iff.2 h]
    exact ⟨rfl, wf_illegal.2 h⟩

/-! ### Parameter bytes -/

theorem pointerByte_of_decodePointer {P : Params} {x : Byte} {p : Pointer} (h : decodePointer P x = some p) :
    pointerByte P p = x := by
  unfold decodePointer at h
  split_ifs at h with hstatus hdata
  · cases h; exact hstatus.symm
  · cases h; exact hdata.symm

theorem decodePointer_pointerByte {P : Params} (h : P.ptrStatus ≠ P.ptrData) (p : Pointer) :
    decodePointer P (pointerByte P p) = some p := by
  cases p with
  | status => exact if_pos rfl
  | data => exact (if_neg h.symm).trans (if_pos rfl)

theorem bitByte_of_decodeBitByte {x : Byte} {b : Bool} (h : decodeBitByte x = some b) : bitByte b = x := by
  unfold decodeBitByte at h
  split_ifs at h with hone hzero
  · cases h; exact hone.symm
  · cases h; exact hzero.symm

theorem decodeBitByte_bitByte (b : Bool) : decodeBitByte (bitByte b) = some b := by
  cases b <;> rfl

/-! ### Transaction strings and the search command -/

/-- A string the bridge can read is one of the five of R90. -/
theorem encode_of_decodeBridge {P : Params} {bs : List Byte} {i : Instr} (h : decodeBridge P bs = some i) :
    encode P i = bs ∧ portOf i = .bridge ∧ i.wf = true := by
  match bs with
  | [] | _ :: _ :: _ :: _ => cases h
  | [c] =>
    simp only [decodeBridge] at h
    split_ifs at h with hrst hrb
    · cases h; exact ⟨by rw [hrst]; rfl, rfl, rfl⟩
    · cases h; exact ⟨by rw [hrb]; rfl, rfl, rfl⟩
  | [c, x] =>
    simp only [decodeBridge] at h
    split_ifs at h with hsrp hsb hwb
    · obtain ⟨p, hp, rfl⟩ := Option.map_eq_some_iff.1 h
      exact ⟨by rw [hsrp, ← pointerByte_of_decodePointer hp]; rfl, rfl, rfl⟩
    · obtain ⟨b, hb, rfl⟩ := Option.map_eq_some_iff.1 h
      exact ⟨by rw [hsb, ← bitByte_of_decodeBitByte hb]; rfl, rfl, rfl⟩
    · cases h; exact ⟨by rw [hwb]; rfl, rfl, rfl⟩

theorem encode_of_decodeBusByte {P : Params} {bs : List Byte} {i : Instr} (h : decodeBusByte P bs = some i) :
    encode P i = bs ∧ portOf i = .bus ∧ i.wf = true := by
  match bs with
  | [] | _ :: _ :: _ => cases h
  | [c] =>
    simp only [decodeBusByte] at h
    split_ifs at h with hc
    cases h; exact ⟨by rw [hc]; rfl, rfl, rfl⟩

/-- The bridge tells the five strings apart: each is read as itself. -/
theorem decode_encode_of_bridge {P : Params} (hP : P.wf = true) {i : Instr} (hi : portOf i = .bridge) :
    decode P (portOf i) (encode P i) = some i := by
  have hdecode : decode P (portOf i) (encode P i) = decodeBridge P (encode P i) := by rw [hi]; rfl
  rw [hdecode]
  simp only [Params.wf, Bool.and_eq_true, decide_eq_true_eq, List.nodup_cons, List.mem_cons, not_or] at hP
  obtain ⟨⟨⟨hsrpRst, hsrpSb, hsrpWb, -⟩, ⟨hrstSb, hrstWb, hrstRb, -⟩, ⟨hsbWb, -⟩, -⟩, hptr⟩ := hP
  cases i with
  | owReset | owWriteBit | owReadBit | owWriteByte | owReadByte | enumNext | searchReset | illegal | busSearchRom =>
    cases hi
  | brSetReadPointer p => simp [encode, decodeBridge, decodePointer_pointerByte hptr]
  | br1wReset => simp [encode, decodeBridge]
  | br1wSingleBit b => simp [encode, decodeBridge, decodeBitByte_bitByte, Ne.symm hsrpSb]
  | br1wWriteByte v => simp [encode, decodeBridge, Ne.symm hsrpWb, Ne.symm hsbWb]
  | br1wReadByte => simp [encode, decodeBridge, Ne.symm hrstRb]

/-! ### The statements -/

/-- Settles O2, port by port: CMD by its table, the bridge because it tells its strings apart, the bus by its one
byte. -/
theorem everyInstructionReadsBack : Obligations.EveryInstructionReadsBack := by
  intro P hP i hi
  cases i with
  | owReset | owWriteBit | owReadBit | owWriteByte | owReadByte | enumNext | searchReset => rfl
  | illegal c => exact congrArg some (decodeCmd_eq_illegal_iff.2 (wf_illegal.1 hi))
  | brSetReadPointer | br1wReset | br1wSingleBit | br1wWriteByte | br1wReadByte => exact decode_encode_of_bridge hP rfl
  | busSearchRom => exact if_pos rfl

/-- Settles O3, port by port. -/
theorem everyReadingEncodesBack : Obligations.EveryReadingEncodesBack := by
  intro P port bs i h
  cases port with
  | cmd =>
    match bs with
    | [] | _ :: _ :: _ => cases h
    | [c] =>
      cases h
      obtain ⟨hbytes, hwf⟩ := encode_decodeCmd P c
      exact ⟨hbytes, portOf_decodeCmd c, hwf⟩
  | bridge => exact encode_of_decodeBridge h
  | bus => exact encode_of_decodeBusByte h

/-- Settles O17: the byte ranges are the complement of R81's table; from IDLE, going back to IDLE changes nothing. -/
theorem illegalCommandWritesOnlyResult : Obligations.IllegalCommandWritesOnlyResult := by
  refine ⟨fun c => ?_, fun c s hi => ?_⟩
  · rw [decodeCmd_eq_illegal_iff, mem_commandBytes]
    simp only [BitVec.le_def, ← BitVec.toNat_inj, BitVec.toNat_ofNat]
    omega
  · rw [exec_illegal c hi, complete, ← hi]
    rfl

/-- Settles O1: each byte's row of the table, and six bytes in no row. -/
theorem commandBytesReadAsTabled : Obligations.CommandBytesReadAsTabled := by
  refine ⟨rfl, rfl, rfl, rfl, rfl, rfl, rfl, ?_⟩
  refine ⟨?_, ?_, ?_, ?_, ?_, ?_⟩ <;> exact decodeCmd_eq_illegal_iff.2 (by decide)

/-! ### The RESULT byte -/

/-- A flag moved to bit `n` is that bit and no other. -/
theorem getLsbD_flagByte_shiftLeft (b : Bool) (n : Nat) {k : Nat} (hk : k < 8) :
    (flagByte b <<< n).getLsbD k = (decide (k = n) && b) := by
  have hflag : (flagByte b).getLsbD (k - n) = (decide (k - n = 0) && b) := by
    cases b with
    | false => simp [flagByte]
    | true => simp [flagByte, BitVec.getLsbD_one]
  rw [BitVec.getLsbD_shiftLeft, hflag, ← Bool.and_assoc]
  congr 1
  rw [Bool.eq_iff_iff]
  simp only [hk, decide_true, Bool.true_and, Bool.and_eq_true, Bool.not_eq_true', decide_eq_false_iff_not,
    decide_eq_true_eq]
  omega

/-- CODE has four bits. -/
theorem getLsbD_codeByte_high (c : Code) {k : Nat} (hk : 4 ≤ k) : (codeByte c).getLsbD k = false := by
  have hlt : (codeByte c).toNat < 2 ^ 4 := by cases c <;> decide
  exact Nat.testBit_lt_two_pow (hlt.trans_le (Nat.pow_le_pow_right (by decide) hk))

/-- RESULT bit by bit: each flag at its place, CODE below. -/
theorem getLsbD_resultByte (c : Code) (found ppd sd : Bool) {k : Nat} (hk : k < 8) :
    (resultByte c found ppd sd).getLsbD k =
      (decide (k = 6) && sd || decide (k = 5) && ppd || decide (k = 4) && found || (codeByte c).getLsbD k) := by
  simp only [resultByte, BitVec.getLsbD_or, getLsbD_flagByte_shiftLeft _ _ hk]

/-- Settles O4: each field is its bits of RESULT, and the codes are their table. -/
theorem resultByteHoldsItsFields : Obligations.ResultByteHoldsItsFields := by
  refine ⟨fun c found ppd sd => ⟨?code, resultFound_resultByte c found ppd sd, ?ppd, ?sd,
    getLsbD_seven_resultByte c found ppd sd⟩, rfl, rfl, rfl, rfl, rfl, rfl, rfl, rfl, rfl, rfl, rfl, rfl⟩
  case code =>
    refine BitVec.eq_of_getLsbD_eq fun k hk => ?_
    have hbits := getLsbD_resultByte c found ppd sd (show k < 8 by omega)
    rw [resultCode, BitVec.getLsbD_extractLsb', BitVec.getLsbD_extractLsb', Nat.zero_add, hbits]
    simp [show k ≠ 6 by omega, show k ≠ 5 by omega, show k ≠ 4 by omega]
  case ppd =>
    rw [resultPpd, getLsbD_resultByte c found ppd sd (by decide), getLsbD_codeByte_high c (by decide)]
    simp
  case sd =>
    rw [resultSd, getLsbD_resultByte c found ppd sd (by decide), getLsbD_codeByte_high c (by decide)]
    simp

end Sys2Proof.Machine
end

section
/-! Host programs (spec/30_encoding.md R88): what each pseudo-instruction expands to. -/

namespace Sys2Proof.Machine

theorem operandLine_of_le {v : Nat} (h : v ≤ 255) (c : Byte) :
    operandLine v c = some [.write 0x01#8 (BitVec.ofNat 8 v), .write 0x00#8 c] :=
  if_pos h

/-- Settles O5: the lines without an operand are their table; the operand decides the other two. -/
theorem pseudoInstructionsExpandAsTabled : Obligations.PseudoInstructionsExpandAsTabled := by
  refine ⟨rfl, rfl, rfl, rfl, rfl, fun b hb => ?_, fun b hb => ?_, fun v => ?_, rfl, rfl⟩
  · rw [assembleLine, if_pos hb, operandLine_of_le (by omega)]
  · rw [assembleLine, if_neg (by omega)]
  · rw [assembleLine, operandLine_of_le (Nat.le_of_lt_succ v.isLt), BitVec.ofNat_toNat, BitVec.setWidth_eq]

end Sys2Proof.Machine
end

section
/-! The transport calls of a primitive that completes (spec/30_encoding.md R95), and of the bridge strings as
instructions (R89, R90). -/

namespace Sys2Proof.Machine

@[simp] theorem judgeReply_log (e : Env) : (judgeReply e).2.log = e.log := by
  unfold judgeReply; split <;> rfl

/-- The string a primitive sends between its waits. -/
def stringOf : Prim → Instr
  | .reset => .br1wReset
  | .writeBit b => .br1wSingleBit b
  | .readBit => .br1wSingleBit true
  | .writeByte v => .br1wWriteByte v
  | .readByte => .br1wReadByte

/-- The calls common to all primitives: status reads, the string `i`, status reads. -/
def StringBetweenPolls (P : Params) (i : Instr) (calls : List Call) : Prop :=
  ∃ a b, 1 ≤ a ∧ 1 ≤ b ∧ calls = List.replicate a (.sendRecv [P.bcSrp, P.ptrStatus]) ++
    [.send (encode P i)] ++ List.replicate b (.sendRecv [P.bcSrp, P.ptrStatus])

theorem sendBetweenWaits_calls {P : Params} {i : Instr} {e : Env} {st : Byte}
    (h : (sendBetweenWaits P i e).1 = .ok st) :
    ∃ calls, StringBetweenPolls P i calls ∧ callsOf (sendBetweenWaits P i e).2.log = callsOf e.log ++ calls := by
  obtain ⟨st0, -, h, hpre⟩ := resThen_eq_ok h
  obtain ⟨ack, -, -, hsend⟩ := resThen_eq_ok h
  obtain ⟨a, ha, hcallsPre⟩ := busyWait_calls P (waitBudget e) e
  obtain ⟨b, hb, hcallsPost⟩ := busyWait_calls P (waitBudget (judgeReply (callSend P i (waitIdle P e).2)).2)
    (judgeReply (callSend P i (waitIdle P e).2)).2
  refine ⟨_, ⟨a, b, ha, hb, rfl⟩, ?_⟩
  rw [sendBetweenWaits, hpre, hsend, waitIdle, hcallsPost, judgeReply_log, callSend, callTransport_log, callsOf_call,
    waitIdle, hcallsPre]
  simp only [List.append_assoc]

/-- The data pointer and the register read that end `P.ReadByte` alone (R110). -/
def callsAfterWait (P : Params) (p : Prim) : List Call :=
  if p = .readByte then [.send [P.bcSrp, P.ptrData], .readReg] else []

theorem primTransactions_calls {P : Params} {p : Prim} {e : Env} {v : PrimValue}
    (h : (primTransactions P p e).1 = .ok v) :
    ∃ calls, StringBetweenPolls P (stringOf p) calls ∧
      callsOf (primTransactions P p e).2.log = callsOf e.log ++ calls ++ callsAfterWait P p := by
  cases p with
  | reset | writeBit | readBit | writeByte =>
    obtain ⟨st, hst, -, hend⟩ := resThen_eq_ok h
    obtain ⟨calls, hshape, hcalls⟩ := sendBetweenWaits_calls hst
    refine ⟨calls, hshape, ?_⟩
    rw [primTransactions, statusResult, hend, hcalls]
    exact (List.append_nil _).symm
  | readByte =>
    obtain ⟨st, hst, h, hend⟩ := resThen_eq_ok h
    obtain ⟨ack, -, h, hptr⟩ := resThen_eq_ok h
    obtain ⟨d, -, -, hread⟩ := resThen_eq_ok h
    obtain ⟨calls, hshape, hcalls⟩ := sendBetweenWaits_calls hst
    refine ⟨calls, hshape, ?_⟩
    rw [primTransactions, hend, hptr, hread]
    simp only [judgeReply_log, callTransport_log, callSend, callsOf_call, hcalls, List.append_assoc]
    rfl

/-- At level T issuing a primitive is its transactions; the record that it was issued is no call. -/
theorem primRun_transactions (P : Params) (p : Prim) {e : Env} (hl : e.level = .transactions) :
    primRun P p e = resThen (primTransactions P p { e with log := .prim p :: e.log })
      fun v e1 => (.ok (reported p v), e1) := by
  unfold primRun primRaw
  simp only [hl]

/-- Settles O20, by the parts of a primitive: each ended `ok`, so each made its calls. -/
theorem completedPrimitiveMakesItsCalls : Obligations.CompletedPrimitiveMakesItsCalls := by
  intro P e p v hl h
  rw [primRun_transactions P p hl] at h ⊢
  obtain ⟨w, hw, -, hend⟩ := resThen_eq_ok h
  obtain ⟨calls, ⟨a, b, ha, hb, rfl⟩, hcalls⟩ := primTransactions_calls hw
  refine ⟨a, b, ha, hb, ?_⟩
  rw [hend, hcalls]
  simp only [List.append_assoc, callsOf_prim]
  cases p <;> rfl

/-- Settles O24: each string's meaning is its one transport call, answered by a fixed reply or a free one. -/
theorem bridgeStringsAreOneCallEach : Obligations.BridgeStringsAreOneCallEach := by
  intro s v i c hmem
  have hexec : exec i s = .next { s with env := callTransport c s.env } := by
    simp only [List.mem_cons, Prod.mk.injEq, List.not_mem_nil, or_false] at hmem
    rcases hmem with ⟨rfl, rfl⟩ | ⟨rfl, rfl⟩ | ⟨rfl, rfl⟩ | ⟨rfl, rfl⟩ | ⟨rfl, rfl⟩ | ⟨rfl, rfl⟩ | ⟨rfl, rfl⟩ <;> rfl
  refine ⟨fun r rest hr => ?_, fun hr => ?_⟩
  · rw [hexec, callTransport_fixed c _ r rest hr]
  · rw [hexec, callTransport_free c _ hr]

end Sys2Proof.Machine
end

section
/-! The host commands that expose the bus primitives (spec/40_bus_primitives.md R112 to R116): each is the row P_RUN of
its primitive, said here as a whole state. -/

namespace Sys2Proof.Machine

section
variable {s : State} {p : Prim}

/-- A failed primitive of the host reports its error and takes BUS_SYNC away (R101). -/
theorem runPrimRow_of_err (hi : s.phase = .idle) {e : BusError} (h : (primRun s.params p s.env).1 = .err e) :
    runPrimRow p s = { s with
      env := (primRun s.params p s.env).2, busSync := false
      result := resultByte (errorCode e) false false false } := by
  rw [runPrimRow_err h, afterPrim_err h, complete, ← hi]

/-- A completed primitive of the host other than the reset is reported with BUS_SYNC as before. -/
theorem runPrimRow_of_ok (hp : p ≠ .reset) {v : PrimValue} (h : (primRun s.params p s.env).1 = .ok v) :
    runPrimRow p s = reportPrim p v { s with env := (primRun s.params p s.env).2 } := by
  rw [runPrimRow_ok h, afterPrim_ok h, syncAfter_ok p s.busSync hp]

/-- How a command ends that is the row of a primitive other than the reset. -/
theorem exec_of_runPrimRow {i : Instr} (hi : s.phase = .idle) (hp : p ≠ .reset)
    (hrow : exec i s = .next (runPrimRow p s)) :
    (∀ v, (primRun s.params p s.env).1 = .ok v →
      exec i s = .next (reportPrim p v { s with env := (primRun s.params p s.env).2 })) ∧
    (∀ e, (primRun s.params p s.env).1 = .err e → exec i s = .next { s with
      env := (primRun s.params p s.env).2, busSync := false
      result := resultByte (errorCode e) false false false }) :=
  ⟨fun _ hv => by rw [hrow, runPrimRow_of_ok hp hv], fun _ he => by rw [hrow, runPrimRow_of_err hi he]⟩

end

/-- Settles O12: the command is the row of `P.Reset`, which starts and ends in IDLE. -/
theorem owResetReportsTheReset : Obligations.OwResetReportsTheReset := by
  intro s hquiet
  obtain ⟨hi, ha⟩ := hquiet
  rw [exec_owReset hi ha]
  refine ⟨fun v hv => ?_, fun e he => by rw [runPrimRow_of_err hi he]⟩
  rw [runPrimRow_ok hv, afterPrim_ok hv, reportPrim, complete, ← hi, syncAfter_reset]

/-- Settles O13: with BUS_SYNC the command is the row of `P.WriteBit(ARG[0])`. -/
theorem owWriteBitSendsArgBit : Obligations.OwWriteBitSendsArgBit := by
  intro s hquiet
  obtain ⟨hi, ha⟩ := hquiet
  refine ⟨fun hs => ?_, fun hs => ?_⟩
  · obtain ⟨hhazard, -⟩ := exec_hazard hi hs
    exact hhazard
  · obtain ⟨hok, herr⟩ := exec_of_runPrimRow hi (by simp) (exec_owWriteBit hi ha hs)
    exact ⟨fun v hv => by rw [hok v hv, reportPrim, complete, ← hi]; rfl, herr⟩

/-- Settles O14: with BUS_SYNC the command is the row of `P.ReadBit`, which writes DATA in its report of success. -/
theorem owReadBitFillsData : Obligations.OwReadBitFillsData := by
  intro s hquiet
  obtain ⟨hi, ha⟩ := hquiet
  refine ⟨fun hs => ?_, fun hs => ?_⟩
  · obtain ⟨-, hhazard, -⟩ := exec_hazard hi hs
    exact hhazard
  · obtain ⟨hok, herr⟩ := exec_of_runPrimRow hi (by simp) (exec_owReadBit hi ha hs)
    exact ⟨fun v hv => by rw [hok v hv, reportPrim, complete, ← hi]; rfl, herr⟩

/-- Settles O15: with BUS_SYNC the command is the row of `P.WriteByte(ARG)`. -/
theorem owWriteByteSendsArg : Obligations.OwWriteByteSendsArg := by
  intro s hquiet
  obtain ⟨hi, ha⟩ := hquiet
  refine ⟨fun hs => ?_, fun hs => ?_⟩
  · obtain ⟨-, -, hhazard, -⟩ := exec_hazard hi hs
    exact hhazard
  · obtain ⟨hok, herr⟩ := exec_of_runPrimRow hi (by simp) (exec_owWriteByte hi ha hs)
    exact ⟨fun v hv => by rw [hok v hv, reportPrim, complete, ← hi]; rfl, herr⟩

/-- Settles O16: with BUS_SYNC the command is the row of `P.ReadByte`, which writes DATA in its report of success. -/
theorem owReadByteFillsData : Obligations.OwReadByteFillsData := by
  intro s hquiet
  obtain ⟨hi, ha⟩ := hquiet
  refine ⟨fun hs => ?_, fun hs => ?_⟩
  · obtain ⟨-, -, -, hhazard⟩ := exec_hazard hi hs
    exact hhazard
  · obtain ⟨hok, herr⟩ := exec_of_runPrimRow hi (by simp) (exec_owReadByte hi ha hs)
    exact ⟨fun v hv => by rw [hok v hv, reportPrim, complete, ← hi]; rfl, herr⟩

end Sys2Proof.Machine
end

section
/-! Level T on fixed replies (spec/40_bus_primitives.md R103 to R111): one poll of a busy-wait, one call and its
judgement, and from them each primitive as a whole environment, on a bridge that is never busy and up to a failing
call. Every outcome of level P is one of these. -/

namespace Sys2Proof.Machine

/-! ### One poll of a busy-wait -/

section
variable {e : Env} {st : Byte} {rest : List Reply} {more : List Bool}

/-- The environment after a call answered by the fixed reply `r`. -/
def heard (c : Call) (r : Reply) (rest : List Reply) (e : Env) : Env :=
  { e with replies := rest, reply := r, log := .call c :: e.log }

theorem callStatus_fixed (P : Params) {r : Reply} (h : e.replies = r :: rest) :
    callStatus P e = heard (.sendRecv [P.bcSrp, P.ptrStatus]) r rest e :=
  callTransport_fixed _ e r rest h

/-- A failed read ends the wait at once. -/
theorem busyWait_failed (P : Params) (fuel : Nat) (h : e.replies = .fail :: rest) :
    busyWait P fuel e = (.err .transportError, heard (.sendRecv [P.bcSrp, P.ptrStatus]) .fail rest e) := by
  cases fuel <;> rw [busyWait, callStatus_fixed P h] <;> rfl

/-- A busy read goes on to the timer draw, which decides between TIMEOUT and another poll. -/
theorem busyWait_busy (P : Params) (fuel : Nat) (h : e.replies = .ok st :: rest) (hst : statusBusy st = true) {x : Bool}
    (ht : e.timers = x :: more) :
    busyWait P (fuel + 1) e =
      if x then (.err .timeout, heard (.sendRecv [P.bcSrp, P.ptrStatus]) (.ok st) rest { e with timers := more })
      else busyWait P fuel (heard (.sendRecv [P.bcSrp, P.ptrStatus]) (.ok st) rest { e with timers := more }) := by
  have hpoll : ∀ onBusy, judgePoll (heard (.sendRecv [P.bcSrp, P.ptrStatus]) (.ok st) rest e) onBusy =
      onBusy (heard (.sendRecv [P.bcSrp, P.ptrStatus]) (.ok st) rest e) := fun _ => if_pos hst
  have hdraw : drawExpired (heard (.sendRecv [P.bcSrp, P.ptrStatus]) (.ok st) rest e) =
      (x, heard (.sendRecv [P.bcSrp, P.ptrStatus]) (.ok st) rest { e with timers := more }) := by
    simp only [drawExpired, heard, ht]
  rw [busyWait, callStatus_fixed P h, hpoll]
  simp only [hdraw]

end

/-- Settles O19: what every wait keeps to, then its first poll case by case. -/
theorem busyWaitEndsAsItsPollsSay : Obligations.BusyWaitEndsAsItsPollsSay := by
  intro P fuel e
  have hends := busyWait_ends P fuel e
  refine ⟨busyWait_calls P fuel e, fun st hok => ?_, fun herr => ?_, fun herr => ?_, fun st rest h hst => ?_,
    fun rest h => busyWait_failed P fuel h, fun st rest more h hst ht => ?_, fun st rest more h hst ht => ?_⟩
  · rw [hok] at hends
    obtain ⟨hreply, hidle⟩ := hends
    exact ⟨hidle trivial, hreply⟩
  · rw [herr] at hends
    exact hends
  · rw [herr] at hends
    exact hends
  · exact busyWait_first P fuel e st rest h hst
  · rw [busyWait_busy P fuel h hst ht]; rfl
  · rw [busyWait_busy P fuel h hst ht]; rfl

/-! ### One string between its waits -/

section
variable {P : Params} {i : Instr} {e : Env} {st ack : Byte} {rest : List Reply}

theorem judgeReply_ok (c : Call) (h : e.replies = .ok ack :: rest) :
    judgeReply (callTransport c e) = (.ok ack, heard c (.ok ack) rest e) := by
  rw [callTransport_fixed c e _ rest h]; rfl

theorem judgeReply_fail (c : Call) (h : e.replies = .fail :: rest) :
    judgeReply (callTransport c e) = (.err .transportError, heard c .fail rest e) := by
  rw [callTransport_fixed c e _ rest h]; rfl

/-- A wait on a bridge that is not busy takes one poll. -/
theorem waitIdle_ok (P : Params) (h : e.replies = .ok st :: rest) (hst : statusBusy st = false) :
    waitIdle P e = (.ok st, heard (.sendRecv [P.bcSrp, P.ptrStatus]) (.ok st) rest e) :=
  busyWait_first P _ e st rest h hst

theorem sendBetweenWaits_pollFails (h : e.replies = .fail :: rest) :
    sendBetweenWaits P i e = (.err .transportError, heard (.sendRecv [P.bcSrp, P.ptrStatus]) .fail rest e) := by
  rw [sendBetweenWaits, waitIdle, busyWait_failed P _ h, resThen_err]

theorem sendBetweenWaits_sendFails (h : e.replies = .ok st :: .fail :: rest) (hst : statusBusy st = false) :
    sendBetweenWaits P i e = (.err .transportError,
      heard (.send (encode P i)) .fail rest (heard (.sendRecv [P.bcSrp, P.ptrStatus]) (.ok st) (.fail :: rest) e)) := by
  rw [sendBetweenWaits, waitIdle_ok P h hst, resThen_ok, callSend, judgeReply_fail _ rfl, resThen_err]

/-- Polls answered not busy around a string that was taken: three calls, and the last status byte. -/
theorem sendBetweenWaits_ok {st1 : Byte} (h : e.replies = .ok st :: .ok ack :: .ok st1 :: rest)
    (hst : statusBusy st = false) (hst1 : statusBusy st1 = false) :
    sendBetweenWaits P i e = (.ok st1, { e with
      replies := rest, reply := .ok st1
      log := .call (.sendRecv [P.bcSrp, P.ptrStatus]) :: .call (.send (encode P i)) ::
        .call (.sendRecv [P.bcSrp, P.ptrStatus]) :: e.log }) := by
  rw [sendBetweenWaits, waitIdle_ok P h hst, resThen_ok, callSend, judgeReply_ok _ rfl, resThen_ok,
    waitIdle_ok P rfl hst1]
  rfl

end

/-! ### The primitives from their string on -/

section
variable {P : Params} {p : Prim} {e e1 : Env} {st : Byte}

theorem resThen_assoc {α β γ : Type} (r : Res α × Env) (k : α → Env → Res β × Env) (l : β → Env → Res γ × Env) :
    resThen (resThen r k) l = resThen r fun a e' => resThen (k a e') l := by
  rcases r with ⟨_ | _, e'⟩ <;> rfl

theorem resThen_of_err {α β : Type} {r : Res α × Env} {k : α → Env → Res β × Env} {x : BusError} (h : r.1 = .err x) :
    resThen r k = (.err x, r.2) := by
  rw [resThen, h]

/-- An error around the string is the primitive's. -/
theorem primRun_of_err {x : BusError} (hl : e.level = .transactions)
    (h : sendBetweenWaits P (stringOf p) { e with log := .prim p :: e.log } = (.err x, e1)) :
    primRun P p e = (.err x, e1) := by
  have hprim : primTransactions P p { e with log := .prim p :: e.log } = (.err x, e1) := by
    cases p with
    | reset | writeBit | readBit | writeByte => exact congrArg statusResult h
    | readByte => rw [primTransactions]; rw [stringOf] at h; rw [h, resThen_err]
  rw [primRun_transactions P p hl, hprim, resThen_err]

/-- Except for `P.ReadByte` the status byte is the result. -/
theorem primRun_of_status (hp : p ≠ .readByte) (hl : e.level = .transactions)
    (h : sendBetweenWaits P (stringOf p) { e with log := .prim p :: e.log } = (.ok st, e1)) :
    primRun P p e = (.ok (reported p (valueOfStatus st)), e1) := by
  have hprim : primTransactions P p { e with log := .prim p :: e.log } = (.ok (valueOfStatus st), e1) := by
    cases p with
    | reset | writeBit | readBit | writeByte => exact congrArg statusResult h
    | readByte => exact absurd rfl hp
  rw [primRun_transactions P p hl, hprim, resThen_ok]

/-- `P.ReadByte` goes on to the data pointer and the register read (R110). -/
theorem primRun_readByte (hl : e.level = .transactions)
    (h : sendBetweenWaits P .br1wReadByte { e with log := .prim .readByte :: e.log } = (.ok st, e1)) :
    primRun P .readByte e =
      resThen (judgeReply (callTransport (.send [P.bcSrp, P.ptrData]) e1)) fun _ e2 =>
      resThen (judgeReply (callTransport .readReg e2)) fun d e3 =>
      (.ok { presence := false, short := false, bit := false, byte := d }, e3) := by
  rw [primRun_transactions P _ hl, primTransactions, h, resThen_ok]
  simp only [resThen_assoc, resThen_ok]
  rfl

end

/-- The string each primitive sends, as the statements on level T list it. -/
theorem eq_encode_stringOf {P : Params} {p : Prim} {bs : List Byte}
    (h : (p, bs) ∈ [(Prim.reset, [P.bc1wrs]), (.writeBit true, [P.bc1wsb, 0x80#8]),
        (.writeBit false, [P.bc1wsb, 0x00#8]), (.readBit, [P.bc1wsb, 0x80#8]), (.readByte, [P.bc1wrb])] ∨
      ∃ x, p = .writeByte x ∧ bs = [P.bc1wwb, x]) : bs = encode P (stringOf p) := by
  rcases h with h | ⟨x, rfl, rfl⟩
  · simp only [List.mem_cons, Prod.mk.injEq, List.not_mem_nil, or_false] at h
    rcases h with ⟨rfl, rfl⟩ | ⟨rfl, rfl⟩ | ⟨rfl, rfl⟩ | ⟨rfl, rfl⟩ | ⟨rfl, rfl⟩ <;> rfl
  · rfl

/-- Settles O21: the string between two polls that are not busy, then for `P.ReadByte` the two calls that read DATA. -/
theorem primitivesOnAnIdleBridge : Obligations.PrimitivesOnAnIdleBridge := by
  intro P e st0 ack st1 rest hl h hst0 hst1
  refine ⟨fun p bs hbs => ?_, fun ack' d rest' hrest => ?_⟩
  · have hne : p ≠ .readByte := by rintro rfl; simp at hbs
    have hstring : bs = encode P (stringOf p) := by
      refine eq_encode_stringOf (hbs.imp_left fun hmem => ?_)
      simp only [List.mem_cons, List.not_mem_nil, or_false] at hmem ⊢
      tauto
    rw [primRun_of_status hne hl (sendBetweenWaits_ok h hst0 hst1), ← hstring]
    cases p <;> rfl
  · subst hrest
    rw [primRun_readByte hl (sendBetweenWaits_ok h hst0 hst1), judgeReply_ok _ rfl, resThen_ok, judgeReply_ok _ rfl,
      resThen_ok]
    rfl

/-- Settles O54: the failing call is the first poll, the string, or for `P.ReadByte` one of the two calls after it. -/
theorem everyFailingCallEndsItsPrimitive : Obligations.EveryFailingCallEndsItsPrimitive := by
  intro P e hl
  refine ⟨fun p bs hbs => ⟨fun rest h => ?_, fun st rest h hst => ?_⟩, fun st ack st' rest h hst hst' => ?_,
    fun st ack st' ack' rest h hst hst' => ?_⟩
  · exact primRun_of_err hl (sendBetweenWaits_pollFails h)
  · rw [eq_encode_stringOf hbs]
    exact primRun_of_err hl (sendBetweenWaits_sendFails h hst)
  · rw [primRun_readByte hl (sendBetweenWaits_ok h hst hst'), judgeReply_fail _ rfl, resThen_err]
    rfl
  · rw [primRun_readByte hl (sendBetweenWaits_ok h hst hst'), judgeReply_ok _ rfl, resThen_ok, judgeReply_fail _ rfl,
      resThen_err]
    rfl

/-! ### Level P and level T -/

/-- The status byte, not busy, that carries the presence, short and bit of a value. -/
def statusOf (v : PrimValue) : Byte :=
  (flagByte v.presence <<< 1) ||| (flagByte v.short <<< 2) ||| (flagByte v.bit <<< 5)

theorem getLsbD_statusOf (v : PrimValue) {k : Nat} (hk : k < 8) : (statusOf v).getLsbD k =
    (decide (k = 1) && v.presence || decide (k = 2) && v.short || decide (k = 5) && v.bit) := by
  simp only [statusOf, BitVec.getLsbD_or, getLsbD_flagByte_shiftLeft _ _ hk]

theorem statusBusy_statusOf (v : PrimValue) : statusBusy (statusOf v) = false := by
  rw [statusBusy, getLsbD_statusOf v (by decide)]
  rfl

theorem valueOfStatus_statusOf (v : PrimValue) : valueOfStatus (statusOf v) = { v with byte := 0x00#8 } := by
  have hbits := @getLsbD_statusOf v
  rw [valueOfStatus, hbits (by decide), hbits (by decide), hbits (by decide)]
  simp

/-- The transport replies on which level T ends a primitive as an answer of level P says: failed at the first poll,
busy there, or on a bridge that is never busy. -/
def repliesFor (a : Answer) : List Reply :=
  match a.error with
  | some .transportError => [.fail]
  | some .timeout => [.ok 0x01#8]
  | none => [.ok 0x00#8, .ok 0x00#8, .ok (statusOf a.value), .ok 0x00#8, .ok a.value.byte]

/-- A busy first poll with the timer expired is the primitive's TIMEOUT. -/
theorem primRun_timeout (P : Params) (p : Prim) {e : Env} {st : Byte} {rest : List Reply} {more : List Bool}
    (hl : e.level = .transactions) (h : e.replies = .ok st :: rest) (hst : statusBusy st = true)
    (ht : e.timers = true :: more) : (primRun P p e).1 = .err .timeout := by
  have hwait : (waitIdle P { e with log := .prim p :: e.log }).1 = .err .timeout :=
    busyWait_expired P _ _ st rest more h hst ht
  rw [primRun_of_err hl (resThen_of_err hwait)]

/-- Level T completes a primitive with every value of level P. -/
theorem primRun_completes (P : Params) (p : Prim) {e : Env} (v : PrimValue) (hl : e.level = .transactions)
    (h : e.replies = [.ok 0x00#8, .ok 0x00#8, .ok (statusOf v), .ok 0x00#8, .ok v.byte]) :
    (primRun P p e).1 = .ok (reported p v) := by
  have hwait := fun i => sendBetweenWaits_ok (P := P) (i := i) (e := { e with log := .prim p :: e.log }) h rfl
    (statusBusy_statusOf v)
  cases p with
  | reset | writeBit | readBit | writeByte =>
    rw [primRun_of_status (by simp) hl (hwait _), valueOfStatus_statusOf]
    rfl
  | readByte =>
    rw [primRun_readByte hl (hwait _), judgeReply_ok _ rfl, resThen_ok, judgeReply_ok _ rfl, resThen_ok]
    rfl

/-- Settles O23: `repliesFor` gives each answer of level P to level T, and `answerOf` each outcome to level P. -/
theorem levelsAdmitTheSameOutcomes : Obligations.LevelsAdmitTheSameOutcomes := by
  refine ⟨fun P e p a => ⟨repliesFor a, [true], ?_⟩, fun P e p => ⟨answerOf (primRun P p e).1, ?_⟩⟩
  · rw [primRun_answer P p { e with level := .primitives, answers := [a] } a [] rfl rfl]
    obtain ⟨_ | x, v⟩ := a
    · exact primRun_completes P p v rfl rfl
    · cases x with
      | timeout => exact primRun_timeout P p rfl rfl rfl rfl
      | transportError => rw [primRun_of_err rfl (sendBetweenWaits_pollFails rfl)]
  · rw [primRun_at_level_P P p e { e with level := .primitives, answers := [answerOf (primRun P p e).1] } [] rfl rfl]

end Sys2Proof.Machine
end

section
/-! What `ENUM_NEXT` does not read (spec/40_bus_primitives.md R117, spec/10_state.md R26 to R28): a pass writes each
transient before a row reads it, so two controllers that differ only in what has not been written yet stay so, row by
row, until the end. -/

namespace Sys2Proof.Machine

/-! ### Controllers in the same search -/

/-- `s` with everything from `t` that a pass does not read before writing it: the host's registers, BUS_SYNC and the
transients. -/
def withUnread (t s : State) : State :=
  { s with
    arg := t.arg, data := t.data, dataWritten := t.dataWritten, result := t.result, busSync := t.busSync
    n := t.n, lastZero := t.lastZero, idBit := t.idBit, cmpBit := t.cmpBit, dir := t.dir
    latPpd := t.latPpd, latSd := t.latSd }

/-- Both controllers have had the same bus reset: they agree on what its row writes. -/
structure SameReset (s t : State) : Prop where
  same : t = withUnread t s
  busSync : t.busSync = s.busSync
  latPpd : t.latPpd = s.latPpd
  latSd : t.latSd = s.latSd

/-- `t` differs from `s` only in ARG, DATA and what the rows from this phase on write before they read it. -/
structure SameSearch (s t : State) : Prop where
  same : t = withUnread t s
  reset : s.phase ≠ .eReset → SameReset s t
  n : inRound s.phase = true → t.n = s.n
  lastZero : inRound s.phase = true ∨ s.phase = .eFinish → t.lastZero = s.lastZero
  idBit : s.phase = .eRdCmp → t.idBit = s.idBit
  dir : s.phase = .eWrDir → t.dir = s.dir
  result : s.phase = .idle → t.result = s.result

section
variable {s t s' s0 : State}

@[simp] theorem withUnread_params : (withUnread t s).params = s.params := rfl

theorem primOutcome_withUnread (p : Prim) : primOutcome p (withUnread t s) = primOutcome p s := rfl

theorem SameSearch.phase (h : SameSearch s t) : t.phase = s.phase := (congrArg State.phase h.same :)

theorem SameSearch.arrivals (h : SameSearch s t) : t.arrivals = s.arrivals := (congrArg State.arrivals h.same :)

/-- Both meet the same environment, and BUS_SYNC follows from the outcome and what it was. -/
theorem SameReset.afterPrim (h : SameReset s t) (p : Prim) : SameReset (afterPrim p s) (afterPrim p t) := by
  obtain ⟨same, hsync, hppd, hsd⟩ := h
  obtain ⟨x, rfl⟩ : ∃ x, t = withUnread x s := ⟨t, same⟩
  exact ⟨rfl, by rw [afterPrim_busSync, afterPrim_busSync, hsync]; rfl, hppd, hsd⟩

/-- Both report the same outcome. -/
theorem SameReset.complete (h : SameReset s t) (c : Code) (found ppd sd : Bool) :
    SameSearch (complete c found ppd sd s) (complete c found ppd sd t) := by
  obtain ⟨same, hsync, hppd, hsd⟩ := h
  obtain ⟨x, rfl⟩ : ∃ x, t = withUnread x s := ⟨t, same⟩
  exact
    { same := rfl, reset := fun _ => ⟨rfl, hsync, hppd, hsd⟩, n := by simp [inRound], lastZero := by simp [inRound]
      idBit := by simp, dir := by simp, result := fun _ => rfl }

theorem SameReset.clearSearch (h : SameReset s t) : SameReset (clearSearch s) (clearSearch t) := by
  obtain ⟨same, hsync, hppd, hsd⟩ := h
  obtain ⟨x, rfl⟩ : ∃ x, t = withUnread x s := ⟨t, same⟩
  exact ⟨rfl, hsync, hppd, hsd⟩

theorem SameReset.abort (h : SameReset s t) (c : Code) : SameSearch (abort c s) (abort c t) := by
  rw [Machine.abort, Machine.abort, h.latPpd, h.latSd]
  exact h.clearSearch.complete c false s.latPpd s.latSd

theorem SameReset.endPass (h : SameReset s t) (hlz : t.lastZero = s.lastZero) : SameReset (endPass s) (endPass t) := by
  obtain ⟨same, hsync, hppd, hsd⟩ := h
  obtain ⟨x, rfl⟩ : ∃ x, t = withUnread x s := ⟨t, same⟩
  refine ⟨?_, hsync, hppd, hsd⟩
  unfold Machine.endPass
  rw [hlz]
  rfl

/-! ### The rows -/

theorem SameSearch.resetRow (h : SameSearch s t) : SameSearch (resetRow s) (resetRow t) := by
  obtain ⟨x, rfl⟩ : ∃ x, t = withUnread x s := ⟨t, h.same⟩
  have hreset : ∀ ppd sd, SameReset (latchReset ppd sd (afterPrim .reset s))
      (latchReset ppd sd (afterPrim .reset (withUnread x s))) := by
    refine fun ppd sd => ⟨rfl, ?_, rfl, rfl⟩
    simp only [latchReset_busSync, afterPrim_busSync, primOutcome_withUnread]
    cases primOutcome .reset s <;> simp
  unfold Machine.resetRow
  rw [primOutcome_withUnread]
  cases primOutcome .reset s with
  | err e => exact (hreset false false).abort _
  | ok v =>
    simp only
    split
    · exact (hreset _ _).abort .short
    · split
      · exact
          { same := rfl, reset := fun _ => { hreset v.presence v.short with same := rfl }
            n := by simp [inRound], lastZero := by simp [inRound], idBit := by simp, dir := by simp, result := by simp }
      · exact (hreset _ _).abort .noPresence

theorem SameSearch.searchRow (h : SameSearch s t) (hp : s.phase = .eSearch) :
    SameSearch (searchRow s) (searchRow t) := by
  have hafter := (h.reset (by simp [hp])).afterPrim (.writeByte s.params.searchCmd)
  obtain ⟨x, rfl⟩ : ∃ x, t = withUnread x s := ⟨t, h.same⟩
  unfold Machine.searchRow
  rw [withUnread_params, primOutcome_withUnread]
  cases primOutcome (.writeByte s.params.searchCmd) s with
  | err e => exact hafter.abort _
  | ok v =>
    exact
      { same := rfl, reset := fun _ => { hafter with same := rfl }
        n := fun _ => rfl, lastZero := fun _ => rfl, idBit := by simp, dir := by simp, result := by simp }

theorem SameSearch.readIdRow (h : SameSearch s t) (hp : s.phase = .eRdId) :
    SameSearch (readIdRow s) (readIdRow t) := by
  have hafter := (h.reset (by simp [hp])).afterPrim .readBit
  have hn := h.n (by simp [hp, inRound])
  have hlz := h.lastZero (by simp [hp, inRound])
  obtain ⟨x, rfl⟩ : ∃ x, t = withUnread x s := ⟨t, h.same⟩
  unfold Machine.readIdRow
  rw [primOutcome_withUnread]
  cases primOutcome .readBit s with
  | err e => exact hafter.abort _
  | ok v =>
    exact
      { same := rfl, reset := fun _ => { hafter with same := rfl }
        n := fun _ => hn, lastZero := fun _ => hlz, idBit := fun _ => rfl, dir := by simp, result := by simp }

/-- The judgement of a pair reads the position, the last zero and the two bits. -/
theorem SameReset.judgePair (h : SameReset s t) (hn : t.n = s.n) (hlz : t.lastZero = s.lastZero)
    (hid : t.idBit = s.idBit) (hcmp : t.cmpBit = s.cmpBit) (hr : judgePair s = .next s') :
    ∃ t', judgePair t = .next t' ∧ SameSearch s' t' := by
  have hdir : chooseDir t = chooseDir s := by
    obtain ⟨x, rfl⟩ : ∃ x, t = withUnread x s := ⟨t, h.same⟩
    unfold chooseDir cursorIndex
    rw [hn, hid, hcmp]
    rfl
  unfold Machine.judgePair
  rw [hid, hcmp, hdir]
  rcases judgePair_cases s with ⟨hi, hc, hr'⟩ | ⟨d, hb, hd, hr'⟩ | ⟨-, -, hr'⟩ <;> rw [hr'] at hr <;> cases hr
  · exact ⟨_, if_pos (by simp [hi, hc]), h.abort _⟩
  · rw [hd]
    refine ⟨_, if_neg (by simp [hb]), ?_⟩
    obtain ⟨same, hsync, hppd, hsd⟩ := h
    obtain ⟨x, rfl⟩ : ∃ x, t = withUnread x s := ⟨t, same⟩
    have hrecord : enterPhase .eWrDir (recordDir d (withUnread x s)) =
        withUnread (enterPhase .eWrDir (recordDir d (withUnread x s))) (enterPhase .eWrDir (recordDir d s)) := by
      have hk : cursorIndex (withUnread x s) = cursorIndex s := by rw [cursorIndex, hn]; rfl
      unfold recordDir
      rw [hk, hn, hid, hcmp, hlz]
      rfl
    exact
      { same := hrecord, reset := fun _ => ⟨hrecord, hsync, hppd, hsd⟩
        n := fun _ => hn, lastZero := fun _ => by simp [hn, hlz, hid, hcmp], idBit := by simp, dir := fun _ => rfl
        result := by simp }

theorem SameSearch.readCmpRow (h : SameSearch s t) (hp : s.phase = .eRdCmp) (hr : readCmpRow s = .next s') :
    ∃ t', readCmpRow t = .next t' ∧ SameSearch s' t' := by
  have hafter := (h.reset (by simp [hp])).afterPrim .readBit
  have hn := h.n (by simp [hp, inRound])
  have hlz := h.lastZero (by simp [hp, inRound])
  have hid := h.idBit hp
  obtain ⟨x, rfl⟩ : ∃ x, t = withUnread x s := ⟨t, h.same⟩
  unfold Machine.readCmpRow at hr ⊢
  rw [primOutcome_withUnread]
  cases ho : primOutcome .readBit s with
  | err e => rw [ho] at hr; cases hr; exact ⟨_, rfl, hafter.abort _⟩
  | ok v =>
    rw [ho] at hr
    have hlatched : SameReset (latchCmp v.bit (afterPrim .readBit s))
      (latchCmp v.bit (afterPrim .readBit (withUnread x s))) := { hafter with same := rfl }
    exact hlatched.judgePair hn hlz hid rfl hr

theorem SameSearch.writeDirRow (h : SameSearch s t) (hp : s.phase = .eWrDir) :
    SameSearch (writeDirRow s) (writeDirRow t) := by
  have hafter := (h.reset (by simp [hp])).afterPrim (.writeBit s.dir)
  have hn := h.n (by simp [hp, inRound])
  have hlz := h.lastZero (by simp [hp, inRound])
  have hdir := h.dir hp
  obtain ⟨x, rfl⟩ : ∃ x, t = withUnread x s := ⟨t, h.same⟩
  unfold Machine.writeDirRow
  rw [hdir, hn, primOutcome_withUnread]
  cases primOutcome (.writeBit s.dir) s with
  | err e => exact hafter.abort _
  | ok v =>
    have hnext : ∀ ph, ph = Phase.eRdId ∨ ph = .eFinish →
        SameSearch (enterPhase ph (nextPosition (afterPrim (.writeBit s.dir) s)))
          (enterPhase ph (nextPosition (afterPrim (.writeBit s.dir) (withUnread x s)))) := by
      rintro _ (rfl | rfl) <;> exact
        { same := rfl, reset := fun _ => { hafter with same := rfl }
          n := fun _ => congrArg (· + 1#7) hn, lastZero := fun _ => hlz
          idBit := by simp, dir := by simp, result := by simp }
    exact hnext _ (by split <;> simp)

theorem SameSearch.finishRow (h : SameSearch s t) (hp : s.phase = .eFinish) (hr : finishRow s = .next s') :
    ∃ t', finishRow t = .next t' ∧ SameSearch s' t' := by
  have hend := (h.reset (by simp [hp])).endPass (h.lastZero (.inr hp))
  obtain ⟨x, rfl⟩ : ∃ x, t = withUnread x s := ⟨t, h.same⟩
  unfold Machine.finishRow at hr
  split at hr
  · cases hr
  · rename_i hfam
    split at hr
    · rename_i hzero
      cases hr
      exact ⟨_, (if_neg hfam).trans (if_pos hzero), hend.clearSearch.complete .zeroFamily false true false⟩
    · rename_i hzero
      split at hr
      · cases hr
      · rename_i hall
        cases hr
        have hfound : SameReset (publishId (Machine.endPass s)) (publishId (Machine.endPass (withUnread x s))) := by
          obtain ⟨same, hsync, hppd, hsd⟩ := hend
          rw [same]
          exact ⟨rfl, hsync, hppd, hsd⟩
        exact ⟨_, (if_neg hfam).trans ((if_neg hzero).trans (if_neg hall)), hfound.complete .ok true true false⟩

/-- Every row of a pass keeps two controllers in the same search. -/
theorem SameSearch.runRow (h : SameSearch s t) (hp : inPass s.phase = true ∨ s.phase = .idle)
    (hr : runRow s = .next s') : ∃ t', runRow t = .next t' ∧ SameSearch s' t' := by
  unfold Machine.runRow at hr ⊢
  rw [h.phase]
  cases hph : s.phase <;> rw [hph] at hr
  case idle => cases hr; exact ⟨t, rfl, h⟩
  case eReset => cases hr; exact ⟨_, rfl, h.resetRow⟩
  case eSearch => cases hr; exact ⟨_, rfl, h.searchRow hph⟩
  case eRdId => cases hr; exact ⟨_, rfl, h.readIdRow hph⟩
  case eRdCmp => exact h.readCmpRow hph hr
  case eWrDir => cases hr; exact ⟨_, rfl, h.writeDirRow hph⟩
  case eFinish => exact h.finishRow hph hr
  case pRun p => simp [hph, inPass] at hp

/-- Rows of a pass, with nothing arriving, end in the same search. -/
theorem SameSearch.runToIdle {rows : Nat} (h : SameSearch s t) (hpass : DuringPass s0 s)
    (hr : runToIdle rows s = .next s') : ∃ t', runToIdle rows t = .next t' ∧ SameSearch s' t' := by
  induction rows generalizing s t with
  | zero => cases hr; exact ⟨t, rfl, h⟩
  | succ rows ih =>
    by_cases hi : s.phase = .idle
    · rw [runToIdle_idle _ hi] at hr
      cases hr
      exact ⟨t, runToIdle_idle _ (h.phase.trans hi), h⟩
    · rcases runRow_stop s with ⟨u, hu⟩ | ⟨hf, -⟩
      · rw [runToIdle_next hi hpass.quiet hu] at hr
        obtain ⟨u', hu', hsame⟩ := h.runRow (hpass.stands.imp_right And.left) hu
        rw [runToIdle_next (h.phase ▸ hi) (h.arrivals.trans hpass.quiet) hu']
        exact ih hsame (hpass.kept ((sequencerStep_quiet hpass.quiet).trans hu)) hr
      · rw [runToIdle_fault hi hpass.quiet hf] at hr
        cases hr

end

/-- Settles O37, row by row: a pass from `E_RESET` keeps the two controllers in the same search, to its end. -/
theorem enumNextReadsOnlyTheSearchState : Obligations.EnumNextReadsOnlyTheSearchState := by
  intro s t arg data result written sync b1 b2 b3 b4 b5 n lz hquiet hexh hr
  obtain ⟨hi, ha⟩ := hquiet
  generalize hs2 : ({ s with
    arg := arg, data := data, dataWritten := written, result := result, busSync := sync
    n := n, lastZero := lz, idBit := b1, cmpBit := b2, dir := b3, latPpd := b4, latSd := b5 } : State) = s2
  have hrun : ∀ u : State, u.phase = .idle → u.exh = false →
      exec .enumNext u = runToIdle passRows (enterPhase .eReset u) :=
    fun u hu hx => (exec_enumNext hu).trans (if_neg (by simp [hx]))
  have hstart : SameSearch (enterPhase .eReset s) (enterPhase .eReset s2) := by
    subst hs2
    exact
      { same := rfl, reset := by simp, n := by simp [inRound], lastZero := by simp [inRound], idBit := by simp
        dir := by simp, result := by simp }
  rw [hrun s hi hexh] at hr
  obtain ⟨t', hr', hsame⟩ := hstart.runToIdle (s0 := s) ⟨ha, rfl, rfl, .inl rfl⟩ hr
  have hframe := runToIdle_frame (s := enterPhase .eReset s2) (hstart.arrivals.trans ha) hr'
  obtain ⟨hdata, hmark, -⟩ := pass_ends (hstart.arrivals.trans ha) hr'
  have hidle : t.phase = .idle := runToIdle_ends_idle (s := enterPhase .eReset s) le_rfl hr
  obtain ⟨-, hsync, hppd, hsd⟩ := hsame.reset (by simp [hidle])
  have hresult := hsame.result hidle
  refine ⟨t', (hrun s2 (by subst hs2; exact hi) (by subst hs2; exact hexh)).trans hr', ?_⟩
  calc t' = withUnread t' t := hsame.same
    _ = _ := by
      unfold withUnread
      rw [hdata, hmark, hframe.arg, hresult, hsync, hppd, hsd]
      subst hs2
      rfl

end Sys2Proof.Machine
end

section
/-! The rows of the sequencer are the one rule (spec/41_search.md R139, R141): the rows before the first position, then
round by round the loop, then the lines after it. -/

namespace Sys2Proof.Machine

/-- The rule of R139 from the search command on. -/
def ruleFromSearch (s : State) : Host.Outcome State Fault Refusal :=
  match primOutcome (.writeByte s.params.searchCmd) s with
  | .err e => .next (abort (errorCode e) (afterPrim (.writeByte s.params.searchCmd) s))
  | .ok _ => ruleLoop 64 (startRounds (afterPrim (.writeByte s.params.searchCmd) s))

section
variable {s : State}

/-- A round goes on only in the next position, with nothing more arriving than before. -/
theorem roundThen_congr {k k' : State → Host.Outcome State Fault Refusal}
    (h : ∀ t, t.n = s.n + 1#7 → t.arrivals = s.arrivals → k t = k' t) : roundThen k s = roundThen k' s := by
  unfold roundThen
  cases primOutcome .readBit s with
  | err e => rfl
  | ok v1 =>
    simp only
    cases primOutcome .readBit (latchId v1.bit (afterPrim .readBit s)) with
    | err e => rfl
    | ok v2 =>
      simp only
      generalize hs2 : latchCmp v2.bit (afterPrim .readBit (latchId v1.bit (afterPrim .readBit s))) = s2
      split
      · rfl
      · cases chooseDir s2 with
        | none => rfl
        | some d =>
          simp only
          cases primOutcome (.writeBit d) (recordDir d s2) with
          | err e => rfl
          | ok v3 => subst hs2; exact h _ rfl rfl

/-- The rounds still to come and the end of the pass are the loop with as many turns and the lines after it. -/
theorem runToIdle_rounds {left : Nat} (hleft : 0 < left) (hn : s.n.toNat + left = 65) (ha : s.arrivals = []) :
    runToIdle (3 * left + 1) (enterPhase .eRdId s) = ruleLoop left s := by
  induction left, hleft using Nat.le_induction generalizing s with
  | base =>
    have hlast : ¬ s.n < 64#7 := by bv_omega
    rw [runToIdle_round 1 s ha, ruleLoop_succ, if_neg hlast]
    exact roundThen_congr fun t _ hta => runToIdle_finish 0 t (hta.trans ha)
  | succ left hleft ih =>
    have hmore : s.n < 64#7 := by bv_omega
    rw [show 3 * (left + 1) + 1 = (3 * left + 1) + 3 by ring, runToIdle_round _ s ha, ruleLoop_succ, if_pos hmore]
    refine roundThen_congr fun t htn hta => ih ?_ (hta.trans ha)
    rw [htn]
    bv_omega

/-- The row E_SEARCH and the rows after it are the rule from the search command on. -/
theorem runToIdle_search (ha : s.arrivals = []) :
    runToIdle (3 * 64 + 2) (enterPhase .eSearch s) = ruleFromSearch s := by
  have hrow : runRow (enterPhase .eSearch s) = .next (searchRow (enterPhase .eSearch s)) := rfl
  rw [runToIdle_next (by simp) (by simpa) hrow]
  unfold searchRow ruleFromSearch
  have ho : primOutcome (.writeByte (enterPhase .eSearch s).params.searchCmd) (enterPhase .eSearch s) =
      primOutcome (.writeByte s.params.searchCmd) s := rfl
  rw [ho]
  cases primOutcome (.writeByte s.params.searchCmd) s with
  | err e => exact runToIdle_idle _ rfl
  | ok v =>
    exact runToIdle_rounds (s := startRounds (afterPrim (.writeByte s.params.searchCmd) s)) (by decide) rfl ha

/-- The rows of a whole pass are the rule of a pass that is not exhausted. -/
theorem runToIdle_pass (ha : s.arrivals = []) (hx : s.exh = false) :
    runToIdle passRows (enterPhase .eReset s) = enumRule s := by
  have hrow : runRow (enterPhase .eReset s) = .next (resetRow (enterPhase .eReset s)) := rfl
  rw [show passRows = (3 * 64 + 2) + 1 from rfl, runToIdle_next (by simp) (by simpa) hrow]
  unfold enumRule resetRow
  have ho : primOutcome .reset (enterPhase .eReset s) = primOutcome .reset s := rfl
  rw [ho, if_neg (by simp [hx])]
  cases primOutcome .reset s with
  | err e => exact runToIdle_idle _ rfl
  | ok v =>
    simp only
    by_cases hshort : v.short = true
    · rw [if_pos hshort, if_pos hshort]
      exact runToIdle_idle _ rfl
    · rw [if_neg hshort, if_neg hshort]
      by_cases hpres : v.presence = true
      · rw [if_pos hpres, if_neg (by simp [hpres])]
        exact runToIdle_search (s := latchReset v.presence v.short (afterPrim .reset s)) ha
      · rw [if_neg hpres, if_pos (by simpa using hpres)]
        exact runToIdle_idle _ rfl

end

/-- Settles O34, by simulation: the rows of each round are one turn of the loop, and the row E_FINISH its end. -/
theorem sequencerRefinesTheOneRule : Obligations.SequencerRefinesTheOneRule := by
  intro s hquiet
  obtain ⟨hi, ha⟩ := hquiet
  rw [exec_enumNext hi]
  by_cases hx : s.exh = true
  · rw [if_pos hx, enumRule, if_pos hx]
  · rw [if_neg hx]
    exact runToIdle_pass ha (by simpa using hx)

end Sys2Proof.Machine
end

section
/-! The rows of a pass one by one (spec/41_search.md R132 to R138), each as the whole state it leaves, and the two
search commands that send nothing (R131, R140). -/

namespace Sys2Proof.Machine

section
variable {s : State}

/-- Outside IDLE with nothing arriving, a step is the row of its phase. -/
theorem step_eReset (hp : s.phase = .eReset) (ha : s.arrivals = []) : step s = .next (resetRow s) := by
  rw [step_row (by simp [hp]) ha, runRow, hp]
theorem step_eSearch (hp : s.phase = .eSearch) (ha : s.arrivals = []) : step s = .next (searchRow s) := by
  rw [step_row (by simp [hp]) ha, runRow, hp]
theorem step_eRdId (hp : s.phase = .eRdId) (ha : s.arrivals = []) : step s = .next (readIdRow s) := by
  rw [step_row (by simp [hp]) ha, runRow, hp]
theorem step_eRdCmp (hp : s.phase = .eRdCmp) (ha : s.arrivals = []) : step s = readCmpRow s := by
  rw [step_row (by simp [hp]) ha, runRow, hp]
theorem step_eWrDir (hp : s.phase = .eWrDir) (ha : s.arrivals = []) : step s = .next (writeDirRow s) := by
  rw [step_row (by simp [hp]) ha, runRow, hp]
theorem step_eFinish (hp : s.phase = .eFinish) (ha : s.arrivals = []) : step s = finishRow s := by
  rw [step_row (by simp [hp]) ha, runRow, hp]

/-! ### Errors -/

/-- The state an abort leaves when the primitive of the row failed (R138). -/
def failedPass (p : Prim) (e : BusError) (s : State) : State :=
  { s with
    env := (primRun s.params p s.env).2, busSync := false, ld := 0#7, lfd := 0#4, exh := false
    result := resultByte (errorCode e) false s.latPpd s.latSd, phase := .idle }

theorem abort_of_err {p : Prim} {e : BusError} (h : primOutcome p s = .err e) :
    abort (errorCode e) (afterPrim p s) = failedPass p e s := by
  rw [afterPrim_err h]
  rfl

/-- A completed primitive that is no reset changes the environment alone. -/
theorem afterPrim_of_ok {p : Prim} {v : PrimValue} (hp : p ≠ .reset) (h : primOutcome p s = .ok v) :
    afterPrim p s = withEnv (primRun s.params p s.env).2 s := by
  rw [afterPrim_ok h, syncAfter_ok p _ hp]
  rfl

end

/-- Settles O29: in each of the three phases the row's primitive fails, and its row aborts. -/
theorem errorInARoundAborts : Obligations.ErrorInARoundAborts := by
  intro s p e ha hrow he
  rcases hrow with ⟨rfl, hp | hp⟩ | ⟨rfl, hp⟩
  · rw [step_eRdId hp ha, readIdRow, he]
    exact congrArg _ (abort_of_err he)
  · rw [step_eRdCmp hp ha, readCmpRow, he]
    exact congrArg _ (abort_of_err he)
  · rw [step_eWrDir hp ha, writeDirRow, he]
    exact congrArg _ (abort_of_err he)

/-! ### The bus reset and the search command -/

/-- Settles O25, by the outcome of the reset: an error, short, no presence, or a device to search for. -/
theorem resetRowFollowsR132 : Obligations.ResetRowFollowsR132 := by
  intro s hp ha
  rw [step_eReset hp ha, resetRow]
  refine ⟨fun e he => ?_, fun v hv => ?_⟩
  · rw [he, afterPrim_err he]
    rfl
  · rw [hv, afterPrim_ok hv, syncAfter_reset]
    refine ⟨fun hshort => ?_, fun hshort hpres => ?_, fun hshort hpres => ?_⟩
    · simp only [hshort]
      rfl
    · rw [show 0x02#8 = resultByte .noPresence false false false from rfl]
      simp only [hshort, hpres]
      rfl
    · simp only [hshort, hpres]
      rfl

/-- Settles O26: the row is the search command's own meaning, and its outcome begins the rounds or aborts. -/
theorem searchRowSendsSearchCommand : Obligations.SearchRowSendsSearchCommand := by
  intro s
  refine ⟨step_eSearch, fun v hv => ?_, fun e he => ?_⟩
  · show Host.Outcome.next (searchRow s) = _
    rw [searchRow, hv, afterPrim_of_ok (by simp) hv]
    rfl
  · show Host.Outcome.next (searchRow s) = _
    rw [searchRow, he]
    exact congrArg _ (abort_of_err he)

/-! ### A round -/

/-- Settles O28: the first read is latched, and the write of the direction moves the cursor. -/
theorem roundRowsAdvance : Obligations.RoundRowsAdvance := by
  intro s v ha
  refine ⟨fun hp hv => ?read, fun hp hv => ⟨fun hn => ?next, fun hn => ?last⟩⟩
  case read =>
    rw [step_eRdId hp ha, readIdRow, hv, afterPrim_of_ok (by simp) hv]
    rfl
  case next =>
    rw [step_eWrDir hp ha, writeDirRow, hv, afterPrim_of_ok (by simp) hv]
    simp only [show s.n < 64#7 by bv_omega]
    rfl
  case last =>
    have hn64 : s.n = 64#7 := by bv_omega
    rw [step_eWrDir hp ha, writeDirRow, hv, afterPrim_of_ok (by simp) hv]
    simp only [nextPosition, withEnv, hn64]
    rfl

/-- The choice of a direction, for a pair that is not both ones (R134.3, R143). -/
theorem chooseDir_table {s : State} {d mark : Bool}
    (h : (s.idBit = false ∧ s.cmpBit = true ∧ d = false ∧ mark = false) ∨
      (s.idBit = true ∧ s.cmpBit = false ∧ d = true ∧ mark = false) ∨
      (s.idBit = false ∧ s.cmpBit = false ∧
        ((s.n.toNat < s.ld.toNat ∧ s.romWritten.getLsbD (cursorIndex s) = true ∧
            d = s.rom.getLsbD (cursorIndex s) ∧ mark = !d) ∨
         (s.n = s.ld ∧ d = true ∧ mark = false) ∨
         (s.ld.toNat < s.n.toNat ∧ d = false ∧ mark = true)))) :
    (s.idBit && s.cmpBit) = false ∧ chooseDir s = some d ∧ mark = ((s.idBit == s.cmpBit) && !d) := by
  unfold chooseDir
  rcases h with ⟨hi, hc, rfl, rfl⟩ | ⟨hi, hc, rfl, rfl⟩ |
    ⟨hi, hc, ⟨hlt, hw, rfl, rfl⟩ | ⟨heq, rfl, rfl⟩ | ⟨hgt, rfl, rfl⟩⟩
  · simp [hi, hc]
  · simp [hi, hc]
  · simp [hi, hc, BitVec.lt_def, hlt, romBit, hw]
  · simp [hi, hc, heq]
  · have hne : s.n ≠ s.ld := fun he => by simp [he] at hgt
    simp [hi, hc, BitVec.lt_def, Nat.not_lt.2 hgt.le, hne]

section
variable {s : State}

theorem recordDir_rom_bit (d : Bool) (hn : 1 ≤ s.n.toNat) {k : Nat} (hk : k < 64) :
    (recordDir d s).rom.getLsbD k = if k = s.n.toNat - 1 then d else s.rom.getLsbD k := by
  rw [recordDir_rom, cursorIndex_eq s hn, getLsbD_setBit _ _ _ _ hk]

theorem recordDir_romWritten_bit (d : Bool) (hn : 1 ≤ s.n.toNat) {k : Nat} (hk : k < 64) :
    (recordDir d s).romWritten.getLsbD k = (decide (k = s.n.toNat - 1) || s.romWritten.getLsbD k) := by
  rw [recordDir_romWritten, cursorIndex_eq s hn, getLsbD_setBit _ _ _ _ hk]
  by_cases hkn : k = s.n.toNat - 1 <;> simp [hkn]

/-- LFD takes the position of a zero within the family byte whole: 8 fits in its four bits. -/
theorem recordDir_lfd_toNat (d : Bool) :
    (recordDir d s).lfd.toNat =
      if ((s.idBit == s.cmpBit) && !d) = true ∧ s.n.toNat ≤ 8 then s.n.toNat else s.lfd.toNat := by
  have h8 : s.n ≤ 8#7 ↔ s.n.toNat ≤ 8 := BitVec.le_def
  simp only [recordDir_lfd, Bool.and_eq_true, decide_eq_true_eq, h8]
  split
  · rename_i hmark
    rw [BitVec.toNat_setWidth, Nat.mod_eq_of_lt (by omega)]
  · rfl

theorem judgePair_chosen {d : Bool} (hpair : (s.idBit && s.cmpBit) = false) (hdir : chooseDir s = some d) :
    judgePair s = .next (enterPhase .eWrDir (recordDir d s)) := by
  simp [judgePair, hpair, hdir]

end

/-- Settles O27: the pair read is judged; the direction is the table's row and goes into one bit of ROM. -/
theorem directionFollowsItsTable : Obligations.DirectionFollowsItsTable := by
  intro s v hp ha hn1 hn64 hv
  rw [step_eRdCmp hp ha, readCmpRow, hv, afterPrim_of_ok (by simp) hv]
  refine ⟨fun hid hcmp => ?none, fun d mark hrow => ?chosen⟩
  case none => exact ⟨_, if_pos (by simp [hid, hcmp]), rfl, rfl, rfl, rfl, rfl, rfl, rfl, rfl⟩
  case chosen =>
    rw [← cursorIndex_eq s hn1] at hrow
    obtain ⟨hpair, hdir, rfl⟩ :=
      chooseDir_table (s := latchCmp v.bit (withEnv (primRun s.params .readBit s.env).2 s)) hrow
    exact ⟨_, judgePair_chosen hpair hdir, rfl, rfl, rfl, rfl, rfl, rfl, rfl, recordDir_lfd_toNat d,
      fun _ => recordDir_rom_bit d hn1, fun _ => recordDir_romWritten_bit d hn1, rfl, rfl, rfl, rfl, rfl⟩

/-! ### The end of a pass -/

/-- Settles O30, by the family byte: with ROM written whole it is zero or not; a bit of it without a value stops. -/
theorem endOfPassFollowsR137 : Obligations.EndOfPassFollowsR137 := by
  intro s hp ha
  rw [step_eFinish hp ha]
  refine ⟨fun hw => ⟨fun hzero => ?_, fun hfam => ?_⟩, fun k hk hunwritten => ?_⟩
  · rcases finishRow_cases s with ⟨-, -, hr⟩ | ⟨hne, -, -⟩ | ⟨hne, -⟩
    · rw [hr]
      rfl
    · exact absurd hzero hne
    · exact absurd hw hne
  · rcases finishRow_cases s with ⟨hzero, -, -⟩ | ⟨-, -, hr⟩ | ⟨hne, -⟩
    · exact absurd hzero hfam
    · rw [hr]
      rfl
    · exact absurd hw hne
  · refine if_pos fun hall => ?_
    have hbit := getLsbD_idByte_zero s.romWritten k hk
    rw [hall, hunwritten, show 0xFF#8 = BitVec.allOnes 8 from rfl, BitVec.getLsbD_allOnes, decide_eq_true hk] at hbit
    cases hbit

/-! ### Commands without bus traffic -/

/-- Settles O31: `SR()` and RESULT 0x00. -/
theorem searchResetClearsTheMarkers : Obligations.SearchResetClearsTheMarkers := by
  intro s hi
  rw [exec_searchReset hi, complete, clearSearch, ← hi]
  rfl

/-- Settles O32: `SR()` and RESULT 0x01, with no row run. -/
theorem exhaustedEnumNextStartsOver : Obligations.ExhaustedEnumNextStartsOver := by
  intro s hi hx
  rw [exec_enumNext hi, if_pos hx, complete, clearSearch, ← hi]
  rfl

end Sys2Proof.Machine
end

section
/-! How `ENUM_NEXT` ends (spec/41_search.md R139, R171, R174): from a state that meets the invariant every row of the
pass goes through, and the row that ends the pass leaves a found identifier or one of the results of R171. -/

namespace Sys2Proof.Machine

/-! ### Rows that go through -/

section
variable {s t : State}

/-- What the row E_RD_CMP can answer (R134, R135). -/
theorem readCmpRow_cases (s : State) :
    (∃ e, primOutcome .readBit s = .err e ∧ readCmpRow s = .next (abort (errorCode e) (afterPrim .readBit s))) ∨
    ∃ v, primOutcome .readBit s = .ok v ∧
      (readCmpRow s = .next (abort .noResponse (latchCmp v.bit (afterPrim .readBit s))) ∨
      (∃ d, readCmpRow s = .next (enterPhase .eWrDir (recordDir d (latchCmp v.bit (afterPrim .readBit s))))) ∨
      (chooseDir (latchCmp v.bit (afterPrim .readBit s)) = none ∧ readCmpRow s = .fault .unwrittenRead)) := by
  unfold readCmpRow
  cases primOutcome .readBit s with
  | err e => exact .inl ⟨e, rfl, rfl⟩
  | ok v =>
    refine .inr ⟨v, rfl, ?_⟩
    rcases judgePair_cases (latchCmp v.bit (afterPrim .readBit s)) with ⟨-, -, hr⟩ | ⟨d, -, -, hr⟩ | ⟨-, hnone, hr⟩
    · exact .inl hr
    · exact .inr (.inl ⟨d, hr⟩)
    · exact .inr (.inr ⟨hnone, hr⟩)

/-- A direction is missing only in the retrace, for an old bit without a value. -/
theorem chooseDir_eq_none (h : chooseDir s = none) :
    s.n < s.ld ∧ s.romWritten.getLsbD (cursorIndex s) = false := by
  unfold chooseDir at h
  split at h
  · cases h
  · split at h
    · rename_i hlt
      exact ⟨hlt, by simpa [romBit] using h⟩
    · cases h

theorem Inv.readCmpRow_goes_on (h : Inv s) (hp : s.phase = .eRdCmp) : ∃ t, readCmpRow s = .next t := by
  rcases readCmpRow_cases s with ⟨e, -, hr⟩ | ⟨v, -, hr | ⟨d, hr⟩ | ⟨hnone, -⟩⟩
  · exact ⟨_, hr⟩
  · exact ⟨_, hr⟩
  · exact ⟨_, hr⟩
  · exfalso
    have hmissing := chooseDir_eq_none hnone
    obtain ⟨hlt, hbit⟩ : s.n < s.ld ∧ s.romWritten.getLsbD (cursorIndex s) = false := hmissing
    obtain ⟨hn1, hn64⟩ := h.cursor_round (by rw [hp]; rfl)
    obtain ⟨hall, -⟩ := h.rom_kept (by bv_omega)
    rw [hall, BitVec.getLsbD_allOnes, cursorIndex_eq s hn1, decide_eq_false_iff_not] at hbit
    omega

theorem Inv.finishRow_goes_on (h : Inv s) (hp : s.phase = .eFinish) : ∃ t, finishRow s = .next t := by
  rcases finishRow_cases s with ⟨-, -, hr⟩ | ⟨-, -, hr⟩ | ⟨hne, -⟩
  · exact ⟨_, hr⟩
  · exact ⟨_, hr⟩
  · exact absurd (eq_allOnes_of_bits _ fun k hk => h.bits_written k (by simpa [bitsDone, hp] using hk)) hne

/-- A row from a state that meets the invariant reads only ROM bits that have a value (R25, R177). -/
theorem Inv.row_goes_on (h : Inv s) : ∃ t, runRow s = .next t := by
  rcases runRow_stop s with hnext | ⟨-, hp | hp⟩
  · exact hnext
  · rw [runRow, hp]
    exact h.readCmpRow_goes_on hp
  · rw [runRow, hp]
    exact h.finishRow_goes_on hp

/-- Where every step of the sequencer goes through and keeps `Q`, a run of them does. -/
theorem runToIdle_goes_on {Q : State → Prop}
    (hstep : ∀ u, Q u → u.phase ≠ .idle → ∃ v, sequencerStep u = .next v ∧ Q v) (rows : Nat) (h : Q s) :
    ∃ t, runToIdle rows s = .next t ∧ Q t := by
  induction rows generalizing s with
  | zero => exact ⟨s, rfl, h⟩
  | succ rows ih =>
    by_cases hi : s.phase = .idle
    · exact ⟨s, runToIdle_idle _ hi, h⟩
    · obtain ⟨u, hu, hQ⟩ := hstep s h hi
      obtain ⟨t, ht, hQt⟩ := ih hQ
      exact ⟨t, by simpa [runToIdle, hi, hu] using ht, hQt⟩

end

/-! ### The two ends of a pass -/

/-- The end of a pass that reports an identifier (R136, R137). -/
structure EnumFound (t : State) : Prop where
  result : t.result = 0x30#8
  idOut : t.idOut = t.rom
  idWritten : t.idWritten = true
  romWritten : t.romWritten = BitVec.allOnes 64
  ld : t.ld = t.lastZero
  exh : t.exh = true ↔ t.ld = 0#7
  family : t.idOut.extractLsb' 0 8 ≠ 0x00#8
  busSync : t.busSync = true

/-- The end of a pass from `s` that reports none: the results of R171 but EXHAUSTED, after `SR()`. -/
structure EnumFailed (s t : State) : Prop where
  ld : t.ld = 0#7
  lfd : t.lfd = 0#4
  exh : t.exh = false
  idOut : t.idOut = s.idOut
  idWritten : t.idWritten = s.idWritten
  report : (t.result ∈ [0x02#8, 0x43#8, 0x63#8, 0x24#8, 0x25#8] ∧ t.busSync = true) ∨
    (t.result ∈ [0x06#8, 0x07#8, 0x26#8, 0x27#8] ∧ t.busSync = false)

/-- A row of a pass goes on in it and leaves ID_OUT alone, or ends it. -/
def EnumRow (s t : State) : Prop :=
  (inPass t.phase = true ∧ t.idOut = s.idOut ∧ t.idWritten = s.idWritten) ∨
    (t.phase = .idle ∧ (EnumFound t ∨ EnumFailed s t))

section
variable {s t : State}

/-- A primitive that fails after the bus reset ends the pass with PPD latched (R138). -/
theorem enumFailed_of_err {p : Prim} {e : BusError} (hp : primOutcome p s = .err e) (hppd : s.latPpd = true)
    (hsd : s.latSd = false) : EnumFailed s (abort (errorCode e) (afterPrim p s)) :=
  { ld := rfl, lfd := rfl, exh := rfl, idOut := rfl, idWritten := rfl
    report := .inr ⟨by rw [abort_result, afterPrim_latPpd, afterPrim_latSd, hppd, hsd]; cases e <;> decide,
      by simp [hp]⟩ }

theorem enumRow_resetRow (s : State) : EnumRow s (resetRow s) := by
  unfold resetRow
  cases ho : primOutcome .reset s with
  | err e =>
    exact .inr ⟨rfl, .inr
      { ld := rfl, lfd := rfl, exh := rfl, idOut := rfl, idWritten := rfl
        report := .inr ⟨by simp only [abort_result, latchReset_latPpd, latchReset_latSd]; cases e <;> decide,
          by simp [ho]⟩ }⟩
  | ok v =>
    simp only
    split
    · rename_i hshort
      refine .inr ⟨rfl, .inr
        { ld := rfl, lfd := rfl, exh := rfl, idOut := rfl, idWritten := rfl, report := .inl ⟨?_, by simp [ho]⟩ }⟩
      rw [abort_result, latchReset_latPpd, latchReset_latSd, hshort]
      cases v.presence <;> decide
    · rename_i hshort
      split
      · exact .inl ⟨rfl, rfl, rfl⟩
      · rename_i hpres
        refine .inr ⟨rfl, .inr
          { ld := rfl, lfd := rfl, exh := rfl, idOut := rfl, idWritten := rfl, report := .inl ⟨?_, by simp [ho]⟩ }⟩
        rw [abort_result, latchReset_latPpd, latchReset_latSd, Bool.eq_false_of_not_eq_true hshort,
          Bool.eq_false_of_not_eq_true hpres]
        decide

/-- The rows after the bus reset, whose flags are latched as present and not short. -/
theorem Inv.enumRow_after_reset (h : Inv s) (hbus : afterBusReset s.phase = true) (hr : runRow s = .next t) :
    EnumRow s t := by
  obtain ⟨hppd, hsd, hsync⟩ := h.reset_latched hbus
  have herr : ∀ {p e}, primOutcome p s = .err e → EnumRow s (abort (errorCode e) (afterPrim p s)) :=
    fun he => .inr ⟨rfl, .inr (enumFailed_of_err he hppd hsd)⟩
  unfold runRow at hr
  cases hph : s.phase <;> rw [hph] at hr hbus
  case idle | eReset | pRun => simp [afterBusReset] at hbus
  case eSearch =>
    cases hr
    unfold searchRow
    cases ho : primOutcome (.writeByte s.params.searchCmd) s with
    | err e => exact herr ho
    | ok v => exact .inl ⟨rfl, rfl, rfl⟩
  case eRdId =>
    cases hr
    unfold readIdRow
    cases ho : primOutcome .readBit s with
    | err e => exact herr ho
    | ok v => exact .inl ⟨rfl, rfl, rfl⟩
  case eRdCmp =>
    rcases readCmpRow_cases s with ⟨e, ho, hrow⟩ | ⟨v, ho, hrow | ⟨d, hrow⟩ | ⟨-, hrow⟩⟩ <;>
      rw [hrow] at hr <;> cases hr
    · exact herr ho
    · refine .inr ⟨rfl, .inr
        { ld := rfl, lfd := rfl, exh := rfl, idOut := rfl, idWritten := rfl
          report := .inl ⟨?_, by simp [ho, hsync]⟩ }⟩
      rw [abort_result, latchCmp_latPpd, latchCmp_latSd, afterPrim_latPpd, afterPrim_latSd, hppd, hsd]
      decide
    · exact .inl ⟨rfl, rfl, rfl⟩
  case eWrDir =>
    cases hr
    unfold writeDirRow
    cases ho : primOutcome (.writeBit s.dir) s with
    | err e => exact herr ho
    | ok v =>
      refine .inl ⟨?_, rfl, rfl⟩
      rw [enterPhase_phase]
      split <;> rfl
  case eFinish =>
    have hexh : s.exh = false := h.exh_pass (by rw [hph]; rfl)
    rcases finishRow_cases s with ⟨-, -, hf⟩ | ⟨hfam, hw, hf⟩ | ⟨-, hf⟩ <;> rw [hf] at hr <;> cases hr
    · exact .inr ⟨rfl, .inr
        { ld := rfl, lfd := rfl, exh := rfl, idOut := rfl, idWritten := rfl
          report := .inl ⟨by rw [complete_result]; decide, hsync⟩ }⟩
    · exact .inr ⟨rfl, .inl
        { result := rfl, idOut := rfl, idWritten := rfl, romWritten := hw, ld := rfl, exh := by simp [hexh]
          family := hfam, busSync := hsync }⟩

/-- Every row of a pass goes on in it or ends it. -/
theorem Inv.enumRow (h : Inv s) (hp : inPass s.phase = true) (hr : runRow s = .next t) : EnumRow s t := by
  by_cases hreset : s.phase = .eReset
  · simp only [runRow, hreset] at hr
    cases hr
    exact enumRow_resetRow s
  · refine h.enumRow_after_reset ?_ hr
    cases hph : s.phase <;> simp_all [inPass, afterBusReset]

/-- A pass under way or just ended that began in the controller `s`. -/
structure DuringEnum (s u : State) : Prop where
  inv : Inv u
  frame : RowFrame s u
  pass : DuringPass s u
  stands : EnumRow s u

theorem DuringEnum.goes_on {u : State} (h : DuringEnum s u) (hi : u.phase ≠ .idle) :
    ∃ v, sequencerStep u = .next v ∧ DuringEnum s v := by
  rcases h.stands with ⟨hp, hid, hmark⟩ | ⟨hidle, -⟩
  · obtain ⟨v, hv⟩ := h.inv.row_goes_on
    have hseq : sequencerStep u = .next v := (sequencerStep_quiet h.pass.quiet).trans hv
    refine ⟨v, hseq, runRow_keeps_inv h.inv hv, h.frame.trans (runRow_frame hv), h.pass.kept hseq, ?_⟩
    rcases h.inv.enumRow hp hv with ⟨hpv, hidv, hmarkv⟩ | ⟨hidle, hfound | hfailed⟩
    · exact .inl ⟨hpv, hidv.trans hid, hmarkv.trans hmark⟩
    · exact .inr ⟨hidle, .inl hfound⟩
    · exact .inr ⟨hidle, .inr
        { hfailed with idOut := hfailed.idOut.trans hid, idWritten := hfailed.idWritten.trans hmark }⟩
  · exact absurd hidle hi

/-- A pass from an idle state that meets the invariant goes through, to one of its two ends. -/
theorem Inv.pass_ends (h : Inv s) (hi : s.phase = .idle) (ha : s.arrivals = []) (hx : s.exh = false) :
    ∃ t, runToIdle passRows (enterPhase .eReset s) = .next t ∧ t.phase = .idle ∧ RowFrame s t ∧
      t.data = s.data ∧ t.dataWritten = s.dataWritten ∧ (EnumFound t ∨ EnumFailed s t) := by
  have hstart : DuringEnum s (enterPhase .eReset s) :=
    { inv := ((inv_iff_registersOk (by rw [hi]; rfl)).1 h).inv_enterPhase_eReset hx
      frame := by constructor <;> rfl
      pass := ⟨ha, rfl, rfl, .inl rfl⟩
      stands := .inl ⟨rfl, rfl, rfl⟩ }
  obtain ⟨t, hrun, hend⟩ := runToIdle_goes_on (fun u => DuringEnum.goes_on) passRows hstart
  have hidle : t.phase = .idle := runToIdle_ends_idle (s := enterPhase .eReset s) le_rfl hrun
  refine ⟨t, hrun, hidle, hend.frame, hend.pass.data, hend.pass.mark, ?_⟩
  rcases hend.stands with ⟨hp, -⟩ | ⟨-, hends⟩
  · simp [hidle, inPass] at hp
  · exact hends

end

/-- Settles O33: exhausted, or a pass whose rows all go through and whose last row is one of its two ends. -/
theorem enumNextCompletesWithOneOutcome : Obligations.EnumNextCompletesWithOneOutcome := by
  intro s h hquiet
  obtain ⟨hi, ha⟩ := hquiet
  by_cases hx : s.exh = true
  · exact ⟨_, (exec_enumNext hi).trans (if_pos hx), rfl, rfl, rfl, rfl, rfl, rfl, rfl, ha,
      .inr ⟨rfl, rfl, rfl, rfl, rfl, .inl ⟨rfl, hx, rfl, rfl⟩⟩⟩
  · obtain ⟨t, hrun, hidle, hframe, hdata, hmark, hend⟩ := h.pass_ends hi ha (by simpa using hx)
    refine ⟨t, (exec_enumNext hi).trans ((if_neg hx).trans hrun), hidle, hframe.arg, hdata, hmark, hframe.params,
      hframe.host, hframe.seen, hframe.arrivals.trans ha, ?_⟩
    rcases hend with f | f
    · exact .inl ⟨f.result, f.idOut, f.idWritten, f.romWritten, f.ld, f.exh, f.family, f.busSync⟩
    · exact .inr ⟨f.ld, f.lfd, f.exh, f.idOut, f.idWritten, .inr f.report⟩

end Sys2Proof.Machine
end

section
/-! The bus work of a pass (spec/41_search.md R130, R142): each row issues at most one primitive, and a pass that finds
an identifier issues exactly the primitives of its rounds. -/

namespace Sys2Proof.Machine

/-! ### At most one primitive a row -/

/-- The primitive that the row of this phase issues (R141). -/
def rowPrim (s : State) : Option Prim :=
  match s.phase with
  | .idle | .eFinish => none
  | .eReset => some .reset
  | .eSearch => some (.writeByte s.params.searchCmd)
  | .eRdId | .eRdCmp => some .readBit
  | .eWrDir => some (.writeBit s.dir)
  | .pRun p => some p

/-- The environment after issuing a primitive, or none. -/
def envAfter (s : State) (p : Option Prim) : Env := p.elim s.env fun p => (primRun s.params p s.env).2

/-- The primitives that the rest of a pass issues, at most: one a row, but none in the last. -/
def primsLeft (s : State) : Nat := rowsLeft s - 1

section
variable {s t : State}

theorem resetRow_env (s : State) : (resetRow s).env = (primRun s.params .reset s.env).2 := by
  unfold resetRow
  cases primOutcome .reset s with
  | err e => rfl
  | ok v =>
    simp only
    split
    · rfl
    · split <;> rfl

theorem searchRow_env (s : State) :
    (searchRow s).env = (primRun s.params (.writeByte s.params.searchCmd) s.env).2 := by
  unfold searchRow
  cases primOutcome (.writeByte s.params.searchCmd) s <;> rfl

theorem readIdRow_env (s : State) : (readIdRow s).env = (primRun s.params .readBit s.env).2 := by
  unfold readIdRow
  cases primOutcome .readBit s <;> rfl

theorem readCmpRow_env (h : readCmpRow s = .next t) : t.env = (primRun s.params .readBit s.env).2 := by
  rcases readCmpRow_cases s with ⟨e, -, hr⟩ | ⟨v, -, hr | ⟨d, hr⟩ | ⟨-, hr⟩⟩ <;> rw [hr] at h <;> cases h <;> rfl

theorem writeDirRow_env (s : State) : (writeDirRow s).env = (primRun s.params (.writeBit s.dir) s.env).2 := by
  unfold writeDirRow
  cases primOutcome (.writeBit s.dir) s <;> rfl

theorem finishRow_env (h : finishRow s = .next t) : t.env = s.env := by
  rcases finishRow_cases s with ⟨-, -, hr⟩ | ⟨-, -, hr⟩ | ⟨-, hr⟩ <;> rw [hr] at h <;> cases h <;> rfl

theorem runPrimRow_env (p : Prim) (s : State) : (runPrimRow p s).env = (primRun s.params p s.env).2 := by
  unfold runPrimRow
  split
  · cases p <;> rfl
  · rfl

/-- A row meets the environment through its primitive alone. -/
theorem runRow_env (h : runRow s = .next t) : t.env = envAfter s (rowPrim s) := by
  unfold runRow at h
  unfold rowPrim
  cases hp : s.phase <;> rw [hp] at h
  case idle => cases h; rfl
  case eReset => cases h; exact resetRow_env s
  case eSearch => cases h; exact searchRow_env s
  case eRdId => cases h; exact readIdRow_env s
  case eRdCmp => exact readCmpRow_env h
  case eWrDir => cases h; exact writeDirRow_env s
  case eFinish => exact finishRow_env h
  case pRun p => cases h; exact runPrimRow_env p s

theorem primsOf_envAfter (p : Option Prim) : primsOf (envAfter s p).log = primsOf s.env.log ++ p.toList := by
  cases p with
  | none => exact (List.append_nil _).symm
  | some p => exact primRun_prims s.params p s.env

/-- A row of a pass that issues a primitive is not its last. -/
theorem rowPrim_length_add_primsLeft (hp : inPass s.phase = true) (hr : runRow s = .next t) :
    (rowPrim s).toList.length + primsLeft t ≤ primsLeft s := by
  have hlt := runRow_rowsLeft_lt (by intro hi; simp [hi, inPass] at hp) hr
  have hone : (rowPrim s).toList.length ≤ 1 := by cases rowPrim s <;> simp
  have hlast : (rowPrim s).toList.length ≤ rowsLeft s - 1 := by
    unfold rowPrim rowsLeft
    cases hph : s.phase <;> simp_all [inPass, passRows]
  unfold primsLeft
  omega

/-- A run of rows of a pass issues no more primitives than it had left. -/
theorem runToIdle_work {s0 : State} {rows : Nat} (hpass : DuringPass s0 s) (hr : runToIdle rows s = .next t) :
    ∃ work, primsOf t.env.log = primsOf s.env.log ++ work ∧ work.length ≤ primsLeft s := by
  induction rows generalizing s with
  | zero => cases hr; exact ⟨[], (List.append_nil _).symm, Nat.zero_le _⟩
  | succ rows ih =>
    rcases hpass.stands with hp | ⟨hi, -⟩
    · have hi : s.phase ≠ .idle := by intro hi; simp [hi, inPass] at hp
      rcases runRow_stop s with ⟨u, hu⟩ | ⟨hf, -⟩
      · rw [runToIdle_next hi hpass.quiet hu] at hr
        obtain ⟨work, hwork, hlen⟩ := ih (hpass.kept ((sequencerStep_quiet hpass.quiet).trans hu)) hr
        have hrow := rowPrim_length_add_primsLeft hp hu
        refine ⟨(rowPrim s).toList ++ work, ?_, by rw [List.length_append]; omega⟩
        rw [hwork, runRow_env hu, primsOf_envAfter, List.append_assoc]
      · rw [runToIdle_fault hi hpass.quiet hf] at hr; cases hr
    · rw [runToIdle_idle _ hi] at hr
      cases hr
      exact ⟨[], (List.append_nil _).symm, Nat.zero_le _⟩

end

/-- Settles O36: a pass starts with 194 primitives left, and an exhausted call runs no row. -/
theorem enumNextBusWorkIsBounded : Obligations.EnumNextBusWorkIsBounded := by
  intro s t hquiet hr
  obtain ⟨hi, ha⟩ := hquiet
  rw [exec_enumNext hi] at hr
  by_cases hx : s.exh = true
  · rw [if_pos hx] at hr
    cases hr
    exact ⟨[], (List.append_nil _).symm, by simp, fun _ => rfl⟩
  · rw [if_neg hx] at hr
    obtain ⟨work, hwork, hlen⟩ := runToIdle_work (s0 := s) (s := enterPhase .eReset s) ⟨ha, rfl, rfl, .inl rfl⟩ hr
    exact ⟨work, hwork, hlen, fun h => absurd h hx⟩

/-! ### The primitives of a found identifier -/

section
variable {s t : State}

/-- The state after a round that read `v1` and `v2` and sent `d` (R134, R135). -/
def afterRound (v1 v2 : PrimValue) (d : Bool) (s : State) : State :=
  nextPosition (afterPrim (.writeBit d) (recordDir d
    (latchCmp v2.bit (afterPrim .readBit (latchId v1.bit (afterPrim .readBit s))))))

theorem afterRound_n (v1 v2 : PrimValue) (d : Bool) (s : State) : (afterRound v1 v2 d s).n = s.n + 1#7 := rfl

theorem afterRound_prims (v1 v2 : PrimValue) (d : Bool) (s : State) :
    primsOf (afterRound v1 v2 d s).env.log = primsOf s.env.log ++ [.readBit, .readBit, .writeBit d] := by
  simp [afterRound]

theorem afterRound_rom_bit (v1 v2 : PrimValue) (d : Bool) (hn : 1 ≤ s.n.toNat) {k : Nat} (hk : k < 64) :
    (afterRound v1 v2 d s).rom.getLsbD k = if k = s.n.toNat - 1 then d else s.rom.getLsbD k :=
  recordDir_rom_bit (s := latchCmp v2.bit (afterPrim .readBit (latchId v1.bit (afterPrim .readBit s)))) d hn hk

/-- A round that goes through aborts or is followed by what comes next. -/
theorem roundThen_next {k : State → Host.Outcome State Fault Refusal} (h : roundThen k s = .next t) :
    (∃ c u, t = abort c u) ∨ ∃ v1 v2 d, k (afterRound v1 v2 d s) = .next t := by
  unfold roundThen at h
  split at h
  · cases h; exact .inl ⟨_, _, rfl⟩
  · rename_i v1 _
    simp only at h
    split at h
    · cases h; exact .inl ⟨_, _, rfl⟩
    · rename_i v2 _
      split at h
      · cases h; exact .inl ⟨_, _, rfl⟩
      · split at h
        · cases h
        · rename_i d _
          split at h
          · cases h; exact .inl ⟨_, _, rfl⟩
          · exact .inr ⟨v1, v2, d, h⟩

/-- A report without FOUND is not that of a found identifier (spec/10_state.md R33). -/
theorem result_ne_found (c : Code) (ppd sd : Bool) : resultByte c false ppd sd ≠ 0x30#8 := by
  intro h
  have hfound := resultFound_resultByte c false ppd sd
  rw [h] at hfound
  exact absurd hfound (by decide)

/-- The lines after the loop are the row E_FINISH. -/
theorem ruleEnd_eq_finishRow (s : State) : ruleEnd s = finishRow s := by
  unfold ruleEnd finishRow zeroFamily endPass
  by_cases hz : s.lastZero = 0#7
  · simp [hz]
  · simp [hz]

theorem ruleEnd_rom (h : ruleEnd s = .next t) : t.rom = s.rom := by
  rw [ruleEnd_eq_finishRow] at h
  rcases finishRow_cases s with ⟨-, -, hr⟩ | ⟨-, -, hr⟩ | ⟨-, hr⟩ <;> rw [hr] at h <;> cases h <;> rfl

theorem ruleEnd_env (h : ruleEnd s = .next t) : t.env = s.env :=
  finishRow_env ((ruleEnd_eq_finishRow s).symm.trans h)

/-- Rounds that find an identifier issued its primitives, and kept the bits already in ROM. -/
theorem ruleLoop_found {left : Nat} (hn1 : 1 ≤ s.n.toNat) (hn : s.n.toNat + left = 65)
    (hr : ruleLoop left s = .next t) (hfound : t.result = 0x30#8) :
    (∀ k, k < s.n.toNat - 1 → t.rom.getLsbD k = s.rom.getLsbD k) ∧
      primsOf t.env.log = primsOf s.env.log ++ roundPrims t.rom left s.n.toNat := by
  induction left generalizing s with
  | zero =>
    exact ⟨fun _ _ => by rw [ruleEnd_rom hr], by rw [ruleEnd_env hr]; exact (List.append_nil _).symm⟩
  | succ left ih =>
    rw [ruleLoop_succ] at hr
    rcases roundThen_next hr with ⟨c, u, rfl⟩ | ⟨v1, v2, d, hr⟩
    · exact absurd hfound (result_ne_found c _ _)
    · have hnext : (afterRound v1 v2 d s).n.toNat = s.n.toNat + 1 := by rw [afterRound_n]; bv_omega
      obtain ⟨hkept, hprims⟩ := ih (by omega) (by omega) hr
      rw [hnext, Nat.add_sub_cancel] at hkept
      have hbit : t.rom.getLsbD (s.n.toNat - 1) = d := by
        rw [hkept _ (by omega), afterRound_rom_bit v1 v2 d hn1 (by omega), if_pos rfl]
      refine ⟨fun k hk => ?_, ?_⟩
      · rw [hkept k (by omega), afterRound_rom_bit v1 v2 d hn1 (by omega), if_neg (by omega)]
      · rw [hprims, afterRound_prims, hnext, roundPrims, hbit, List.append_assoc]
        rfl

/-- From the search command on. -/
theorem ruleFromSearch_found (hr : ruleFromSearch s = .next t) (hfound : t.result = 0x30#8) :
    primsOf t.env.log = primsOf s.env.log ++ .writeByte s.params.searchCmd :: roundPrims t.rom 64 1 := by
  unfold ruleFromSearch at hr
  split at hr
  · cases hr
    exact absurd hfound (result_ne_found _ _ _)
  · have hstart := primRun_prims s.params (.writeByte s.params.searchCmd) s.env
    obtain ⟨-, hprims⟩ := ruleLoop_found (s := startRounds (afterPrim (.writeByte s.params.searchCmd) s))
      le_rfl rfl hr hfound
    rw [hprims]
    show primsOf (primRun s.params (.writeByte s.params.searchCmd) s.env).2.log ++ _ = _
    rw [hstart, List.append_assoc]
    rfl

/-- A call that finds an identifier went on to the search command after its bus reset. -/
theorem enumRule_found (hr : enumRule s = .next t) (hfound : t.result = 0x30#8) :
    ∃ v : PrimValue, ruleFromSearch (latchReset v.presence v.short (afterPrim .reset s)) = .next t := by
  unfold enumRule at hr
  split at hr
  · cases hr
    exact absurd hfound (result_ne_found _ _ _)
  · split at hr
    · cases hr
      exact absurd hfound (result_ne_found _ _ _)
    · rename_i v _
      simp only at hr
      split at hr
      · cases hr
        exact absurd hfound (result_ne_found _ _ _)
      · split at hr
        · cases hr
          exact absurd hfound (result_ne_found _ _ _)
        · exact ⟨v, hr⟩

end

/-- Settles O35, along the one rule: the reset, SEARCH_CMD, and round after round the bit that stays in ROM. -/
theorem completePassIssuesItsPrimitives : Obligations.CompletePassIssuesItsPrimitives := by
  intro s t hquiet hr hfound
  rw [sequencerRefinesTheOneRule s hquiet] at hr
  obtain ⟨v, hsearch⟩ := enumRule_found hr hfound
  rw [ruleFromSearch_found hsearch hfound]
  show primsOf (primRun s.params .reset s.env).2.log ++ _ = _
  rw [primRun_prims, List.append_assoc]
  rfl

end Sys2Proof.Machine
end

section
/-! `ENUM_NEXT` is a function of the controller's state and the outcomes of its primitives (spec/41_search.md R154): two
equal controllers given the same answers of level P stay equal row by row. -/

namespace Sys2Proof.Machine

/-- The controller of `s` with the environment and the hosts of `x`. -/
def withOutside (x s : State) : State :=
  { s with env := x.env, host := x.host, arrivals := x.arrivals, seen := x.seen }

/-- The same controller, undisturbed and given the same answers of level P. -/
structure Alike (s t : State) : Prop where
  same : t = withOutside t s
  quiet : s.arrivals = [] ∧ t.arrivals = []
  level : s.env.level = .primitives ∧ t.env.level = .primitives
  answers : t.env.answers = s.env.answers

section
variable {s t s' s0 : State}

@[simp] theorem withOutside_params (x s : State) : (withOutside x s).params = s.params := rfl

theorem Alike.phase (h : Alike s t) : t.phase = s.phase := (congrArg State.phase h.same :)

theorem Alike.params (h : Alike s t) : t.params = s.params := (congrArg State.params h.same :)

/-- An update of the controller alone. -/
theorem Alike.map (h : Alike s t) {f : State → State} (hf : ∀ x s, f (withOutside x s) = withOutside x (f s)) :
    Alike (f s) (f t) := by
  have hs : f s = withOutside s (f s) := hf s s
  have ht : f t = withOutside t (f s) := (congrArg f h.same).trans (hf t s)
  rw [hs, ht]
  exact ⟨rfl, h.quiet, h.level, h.answers⟩

/-- Given an answer, a primitive has the same outcome in both. -/
theorem Alike.prim (h : Alike s t) (p : Prim) (hne : s.env.answers ≠ []) :
    primOutcome p t = primOutcome p s ∧ Alike (afterPrim p s) (afterPrim p t) := by
  obtain ⟨a, rest, ha⟩ := List.exists_cons_of_ne_nil hne
  have hs := primRun_answer s.params p s.env a rest h.level.1 ha
  have ht := primRun_answer t.params p t.env a rest h.level.2 (h.answers.trans ha)
  have ho : primOutcome p t = primOutcome p s := by rw [primOutcome, primOutcome, hs, ht]
  refine ⟨ho, ?_, h.quiet, ⟨?_, ?_⟩, ?_⟩
  · obtain ⟨x, rfl⟩ : ∃ x, t = withOutside x s := ⟨t, h.same⟩
    unfold afterPrim
    rw [ho]
    rfl
  · rw [afterPrim_env, primRun_level]; exact h.level.1
  · rw [afterPrim_env, primRun_level]; exact h.level.2
  · rw [afterPrim_env, afterPrim_env, hs, ht]

/-! ### The rows -/

theorem Alike.resetRow (h : Alike s t) (hne : s.env.answers ≠ []) : Alike (resetRow s) (resetRow t) := by
  obtain ⟨ho, hafter⟩ := h.prim .reset hne
  unfold Machine.resetRow
  rw [ho]
  cases primOutcome .reset s with
  | err e => exact hafter.map (f := fun u => abort (errorCode e) (latchReset false false u)) fun _ _ => rfl
  | ok v =>
    simp only
    split
    · exact hafter.map (f := fun u => abort .short (latchReset v.presence v.short u)) fun _ _ => rfl
    · split
      · exact hafter.map (f := fun u => enterPhase .eSearch (latchReset v.presence v.short u)) fun _ _ => rfl
      · exact hafter.map (f := fun u => abort .noPresence (latchReset v.presence v.short u)) fun _ _ => rfl

theorem Alike.searchRow (h : Alike s t) (hne : s.env.answers ≠ []) : Alike (searchRow s) (searchRow t) := by
  obtain ⟨ho, hafter⟩ := h.prim (.writeByte s.params.searchCmd) hne
  unfold Machine.searchRow
  rw [h.params, ho]
  cases primOutcome (.writeByte s.params.searchCmd) s with
  | err e => exact hafter.map (f := abort (errorCode e)) fun _ _ => rfl
  | ok v => exact hafter.map (f := fun u => enterPhase .eRdId (startRounds u)) fun _ _ => rfl

theorem Alike.readIdRow (h : Alike s t) (hne : s.env.answers ≠ []) : Alike (readIdRow s) (readIdRow t) := by
  obtain ⟨ho, hafter⟩ := h.prim .readBit hne
  unfold Machine.readIdRow
  rw [ho]
  cases primOutcome .readBit s with
  | err e => exact hafter.map (f := abort (errorCode e)) fun _ _ => rfl
  | ok v => exact hafter.map (f := fun u => enterPhase .eRdCmp (latchId v.bit u)) fun _ _ => rfl

theorem Alike.judgePair (h : Alike s t) (hr : judgePair s = .next s') :
    ∃ t', judgePair t = .next t' ∧ Alike s' t' := by
  have hid : t.idBit = s.idBit := (congrArg State.idBit h.same :)
  have hcmp : t.cmpBit = s.cmpBit := (congrArg State.cmpBit h.same :)
  have hdir : chooseDir t = chooseDir s := (congrArg chooseDir h.same :)
  unfold Machine.judgePair
  rw [hid, hcmp, hdir]
  rcases judgePair_cases s with ⟨hi, hc, hr'⟩ | ⟨d, hb, hd, hr'⟩ | ⟨-, -, hr'⟩ <;> rw [hr'] at hr <;> cases hr
  · exact ⟨_, if_pos (by simp [hi, hc]), h.map fun _ _ => rfl⟩
  · rw [hd]
    exact ⟨_, if_neg (by simp [hb]), h.map (f := fun u => enterPhase .eWrDir (recordDir d u)) fun _ _ => rfl⟩

theorem Alike.readCmpRow (h : Alike s t) (hne : s.env.answers ≠ []) (hr : readCmpRow s = .next s') :
    ∃ t', readCmpRow t = .next t' ∧ Alike s' t' := by
  obtain ⟨ho, hafter⟩ := h.prim .readBit hne
  unfold Machine.readCmpRow at hr ⊢
  rw [ho]
  cases hv : primOutcome .readBit s with
  | err e => rw [hv] at hr; cases hr; exact ⟨_, rfl, hafter.map fun _ _ => rfl⟩
  | ok v => rw [hv] at hr; exact (hafter.map (f := latchCmp v.bit) fun _ _ => rfl).judgePair hr

theorem Alike.writeDirRow (h : Alike s t) (hne : s.env.answers ≠ []) : Alike (writeDirRow s) (writeDirRow t) := by
  have hdir : t.dir = s.dir := (congrArg State.dir h.same :)
  have hn : t.n = s.n := (congrArg State.n h.same :)
  obtain ⟨ho, hafter⟩ := h.prim (.writeBit s.dir) hne
  unfold Machine.writeDirRow
  rw [hdir, hn, ho]
  cases primOutcome (.writeBit s.dir) s with
  | err e => exact hafter.map (f := abort (errorCode e)) fun _ _ => rfl
  | ok v =>
    exact hafter.map (f := fun u => enterPhase (if s.n < 64#7 then .eRdId else .eFinish) (nextPosition u))
      fun _ _ => rfl

theorem Alike.finishRow (h : Alike s t) (hr : finishRow s = .next s') : ∃ t', finishRow t = .next t' ∧ Alike s' t' := by
  have hzf : zeroFamily t = zeroFamily s := (congrArg zeroFamily h.same :)
  have hwritten : t.romWritten = s.romWritten := (congrArg State.romWritten h.same :)
  unfold Machine.finishRow at hr ⊢
  rw [hzf, hwritten]
  split at hr
  · cases hr
  · rename_i hfam
    split at hr
    · rename_i hzero
      cases hr
      exact ⟨_, (if_neg hfam).trans (if_pos hzero),
        h.map (f := fun u => complete .zeroFamily false true false (clearSearch (endPass u))) fun _ _ => rfl⟩
    · rename_i hzero
      split at hr
      · cases hr
      · rename_i hall
        cases hr
        exact ⟨_, (if_neg hfam).trans ((if_neg hzero).trans (if_neg hall)),
          h.map (f := fun u => complete .ok true true false (publishId (endPass u))) fun _ _ => rfl⟩

/-- Every row of a pass keeps two controllers alike, if there is an answer for its primitive. -/
theorem Alike.runRow (h : Alike s t) (hp : inPass s.phase = true)
    (hans : (rowPrim s).toList.length ≤ s.env.answers.length) (hr : runRow s = .next s') :
    ∃ t', runRow t = .next t' ∧ Alike s' t' := by
  have hne : ∀ {p}, rowPrim s = some p → s.env.answers ≠ [] := by
    intro p hsome hnil
    simp [hsome, hnil] at hans
  unfold Machine.runRow at hr ⊢
  rw [h.phase]
  cases hph : s.phase <;> rw [hph] at hr hp
  case idle | pRun => simp [inPass] at hp
  case eReset => cases hr; exact ⟨_, rfl, h.resetRow (hne (by rw [rowPrim, hph]))⟩
  case eSearch => cases hr; exact ⟨_, rfl, h.searchRow (hne (by rw [rowPrim, hph]))⟩
  case eRdId => cases hr; exact ⟨_, rfl, h.readIdRow (hne (by rw [rowPrim, hph]))⟩
  case eRdCmp => exact h.readCmpRow (hne (by rw [rowPrim, hph])) hr
  case eWrDir => cases hr; exact ⟨_, rfl, h.writeDirRow (hne (by rw [rowPrim, hph]))⟩
  case eFinish => exact h.finishRow hr

/-- Level P uses up one answer a primitive. -/
theorem answers_envAfter (hl : s.env.level = .primitives) (p : Option Prim) :
    s.env.answers.length ≤ (envAfter s p).answers.length + p.toList.length := by
  cases p with
  | none => exact le_rfl
  | some p =>
    cases ha : s.env.answers with
    | nil => exact Nat.zero_le _
    | cons a rest => simp [envAfter, primRun_answer s.params p s.env a rest hl ha]

/-- Rows of a pass with answers enough keep two controllers alike, to its end. -/
theorem Alike.runToIdle {rows : Nat} (h : Alike s t) (hpass : DuringPass s0 s)
    (hans : primsLeft s ≤ s.env.answers.length) (hr : runToIdle rows s = .next s') :
    ∃ t', runToIdle rows t = .next t' ∧ Alike s' t' := by
  induction rows generalizing s t with
  | zero => cases hr; exact ⟨t, rfl, h⟩
  | succ rows ih =>
    rcases hpass.stands with hp | ⟨hi, -⟩
    · have hi : s.phase ≠ .idle := by intro hi; simp [hi, inPass] at hp
      rcases runRow_stop s with ⟨u, hu⟩ | ⟨hf, -⟩
      · rw [runToIdle_next hi hpass.quiet hu] at hr
        have hleft := rowPrim_length_add_primsLeft hp hu
        have hused := answers_envAfter h.level.1 (rowPrim s)
        rw [← runRow_env hu] at hused
        obtain ⟨u', hu', halike⟩ := h.runRow hp (by omega) hu
        rw [runToIdle_next (h.phase ▸ hi) h.quiet.2 hu']
        exact ih halike (hpass.kept ((sequencerStep_quiet hpass.quiet).trans hu)) (by omega) hr
      · rw [runToIdle_fault hi hpass.quiet hf] at hr; cases hr
    · rw [runToIdle_idle _ hi] at hr
      cases hr
      exact ⟨t, runToIdle_idle _ (h.phase.trans hi), h⟩

end

/-- Settles O38, by simulation: 194 answers are enough for every row of a pass. -/
theorem outcomesDecideEnumNext : Obligations.OutcomesDecideEnumNext := by
  intro s1 s2 t1 hquiet1 hquiet2 hsame hl1 hl2 hans hmany hr
  obtain ⟨hi1, ha1⟩ := hquiet1
  obtain ⟨hi2, ha2⟩ := hquiet2
  have h : Alike s1 s2 :=
    { same := by rw [hsame]; rfl, quiet := ⟨ha1, ha2⟩, level := ⟨hl1, hl2⟩, answers := hans.symm }
  have hx : s2.exh = s1.exh := (congrArg State.exh h.same :)
  have hend : ∃ t2, exec .enumNext s2 = .next t2 ∧ Alike t1 t2 := by
    rw [exec_enumNext hi1] at hr
    rw [exec_enumNext hi2, hx]
    split at hr
    · rename_i hexh
      cases hr
      exact ⟨_, if_pos hexh, h.map (f := fun u => complete .exhausted false false false (clearSearch u)) fun _ _ => rfl⟩
    · rename_i hexh
      obtain ⟨t2, hrun, halike⟩ := (h.map (f := enterPhase .eReset) fun _ _ => rfl).runToIdle (s0 := s1)
        ⟨ha1, rfl, rfl, .inl rfl⟩ hmany hr
      exact ⟨t2, (if_neg hexh).trans hrun, halike⟩
  obtain ⟨t2, hrun, halike⟩ := hend
  refine ⟨t2, hrun, ?_, halike.answers.symm⟩
  rw [sameController, halike.same]
  rfl

end Sys2Proof.Machine
end

section
/-! The search order (spec/41_search.md R150): the first bit in which two identifiers differ decides, as the most
significant one does in the numeric order of the reversed words. -/

namespace Sys2Proof.Machine

section
variable {a b c : Ident}

/-- Two identifiers that differ have a first index where they do. -/
theorem precedes_or_precedes (h : a ≠ b) : precedes a b ∨ precedes b a := by
  have hdiff : ∃ k, k < 64 ∧ a.getLsbD k ≠ b.getLsbD k := by
    by_contra hnone
    push Not at hnone
    exact h (BitVec.eq_of_getLsbD_eq hnone)
  have hfirst := Nat.find_spec hdiff
  have hbelow : agreeBelow a b (Nat.find hdiff) := by
    intro j hj
    by_contra hne
    exact Nat.find_min hdiff hj ⟨hj.trans hfirst.1, hne⟩
  cases hbit : a.getLsbD (Nat.find hdiff) with
  | false => exact .inl ⟨_, hfirst.1, hbelow, hbit, by simpa [hbit] using hfirst.2⟩
  | true => exact .inr ⟨_, hfirst.1, fun j hj => (hbelow j hj).symm, by simpa [hbit] using hfirst.2, hbit⟩

/-- Bit `63 - k` of the reversed word is bit `k`. -/
theorem testBit_reverse {k : Nat} (a : Ident) (hk : k < 64) : a.reverse.toNat.testBit (63 - k) = a.getLsbD k := by
  rw [← BitVec.getMsbD_reverse, BitVec.getMsbD_eq_getLsbD, decide_eq_true hk, Bool.true_and]
  rfl

theorem toNat_reverse_lt (h : precedes a b) : a.reverse.toNat < b.reverse.toNat := by
  obtain ⟨k, hk, hbelow, ha, hb⟩ := h
  refine Nat.lt_of_testBit (63 - k) ?_ ?_ fun j hj => ?_
  · rw [testBit_reverse a hk, ha]
  · rw [testBit_reverse b hk, hb]
  · by_cases hj64 : j < 64
    · have hsame := hbelow (63 - j) (by omega)
      rw [← testBit_reverse a (by omega), ← testBit_reverse b (by omega)] at hsame
      rwa [show 63 - (63 - j) = j by omega] at hsame
    · have hout : ∀ w : Ident, w.toNat.testBit j = false := fun w => BitVec.getLsbD_of_ge w j (by omega)
      rw [hout, hout]

theorem precedes_iff_toNat_reverse : precedes a b ↔ a.reverse.toNat < b.reverse.toNat := by
  refine ⟨toNat_reverse_lt, fun hlt => ?_⟩
  rcases precedes_or_precedes (a := a) (b := b) (by rintro rfl; omega) with h | h
  · exact h
  · have := toNat_reverse_lt h
    omega

theorem not_precedes_self : ¬ precedes a a := fun h => lt_irrefl _ (toNat_reverse_lt h)

theorem precedes_trans (hab : precedes a b) (hbc : precedes b c) : precedes a c :=
  precedes_iff_toNat_reverse.2 ((toNat_reverse_lt hab).trans (toNat_reverse_lt hbc))

end

/-- Settles O42: the order is the numeric one of the reversed words, and so inherits its laws. -/
theorem searchOrderIsReversedBitOrder : Obligations.SearchOrderIsReversedBitOrder :=
  ⟨fun _ _ => precedes_iff_toNat_reverse, fun _ => not_precedes_self, fun _ _ _ => precedes_trans,
    fun _ _ => precedes_or_precedes⟩

end Sys2Proof.Machine
end

section
/-! The way of one pass through the identifiers of the bus (spec/41_search.md R143, R150 to R152): what the bits chosen
so far say about the devices, kept bit by bit, and what it says at the end. -/

namespace Sys2Proof.Machine

/-- The pass after `k` positions: `rom` holds the bits chosen so far and, above them, those of the identifier `old`
found before; `ld` is where the pass leaves `old` (0 if there is none), `last` its last zero branch so far. -/
structure OnPath (S : List Ident) (old : Ident) (ld : Nat) (rom : Ident) (k last : Nat) : Prop where
  live : ∃ x ∈ S, agreeBelow x rom k
  rest : ∀ j, k ≤ j → j < 64 → rom.getLsbD j = old.getLsbD j
  retrace : ∀ j, j < k → j + 1 < ld → rom.getLsbD j = old.getLsbD j
  branch : 1 ≤ ld → ld ≤ k → rom.getLsbD (ld - 1) = true
  least : ∀ j, ld ≤ j → j < k → rom.getLsbD j = true → ∀ x ∈ S, agreeBelow x rom j → x.getLsbD j = true
  last_le : last ≤ k
  last_zero : last ≠ 0 → zeroBranch S rom last
  last_max : ∀ q, q ≤ k → zeroBranch S rom q → q ≤ last

/-- The bit `d` for index `k` as the direction table gives it, `zeroTaken` marking a discrepancy taken to 0 (R143). -/
structure NextBit (S : List Ident) (old : Ident) (ld : Nat) (rom : Ident) (k : Nat) (d zeroTaken : Bool) : Prop where
  live : ∃ x ∈ S, agreeBelow x rom k ∧ x.getLsbD k = d
  retrace : k + 1 < ld → d = old.getLsbD k
  branch : k + 1 = ld → d = true
  least : ld ≤ k → d = true → ∀ x ∈ S, agreeBelow x rom k → x.getLsbD k = true
  zero : zeroTaken = true ↔ d = false ∧ ∃ x ∈ S, agreeBelow x rom k ∧ x.getLsbD k = true

/-- What R152 says of the identifier found before, where there is one. -/
def leavesAt (S : List Ident) (old : Ident) (ld : Nat) : Prop := ld ≠ 0 → old ∈ S ∧ lastBranch S old ld

section
variable {S : List Ident} {old rom rom' : Ident} {ld k last : Nat} {d z : Bool}

theorem zeroBranch_of_lastBranch {p : Nat} (h : lastBranch S rom p) (hp : p ≠ 0) : zeroBranch S rom p := by
  rcases h with ⟨rfl, -⟩ | ⟨hz, -⟩
  · exact absurd rfl hp
  · exact hz

/-- The last branch is 0 exactly for the last device. -/
theorem lastBranch_eq_zero {p : Nat} (h : lastBranch S rom p) : p = 0 ↔ ∀ x ∈ S, ¬ precedes rom x := by
  constructor
  · rintro rfl x hx ⟨k, hk, hbelow, h0, h1⟩
    rcases h with ⟨-, hnone⟩ | ⟨⟨hpos, -⟩, -⟩
    · exact hnone (k + 1) ⟨by omega, by omega, h0, x, hx, fun j hj => (hbelow j hj).symm, h1⟩
    · omega
  · intro hlast
    by_contra hp
    obtain ⟨h1, h64, h0, x, hx, hbelow, hx1⟩ := zeroBranch_of_lastBranch h hp
    exact hlast x hx ⟨p - 1, by omega, fun j hj => (hbelow j hj).symm, h0, hx1⟩

/-! ### One more bit -/

theorem agreeBelow_congr {x : Ident} {j : Nat} (h : agreeBelow rom rom' j) : agreeBelow x rom j ↔ agreeBelow x rom' j :=
  ⟨fun hx i hi => (hx i hi).trans (h i hi), fun hx i hi => (hx i hi).trans (h i hi).symm⟩

/-- A zero branch depends on the bits up to its position alone. -/
theorem zeroBranch_congr {q : Nat} (h : agreeBelow rom rom' q) : zeroBranch S rom q → zeroBranch S rom' q := by
  rintro ⟨h1, h64, h0, x, hx, hbelow, hx1⟩
  refine ⟨h1, h64, (h _ (by omega)).symm.trans h0, x, hx, ?_, hx1⟩
  exact (agreeBelow_congr fun j hj => h j (by omega)).1 hbelow

/-- The devices that agree with one bit more are those that agree so far and have that bit. -/
theorem agreeBelow_succ {x : Ident} (hk : k < 64)
    (hrom : ∀ j, j < 64 → rom'.getLsbD j = if j = k then d else rom.getLsbD j) :
    agreeBelow x rom' (k + 1) ↔ agreeBelow x rom k ∧ x.getLsbD k = d := by
  constructor
  · intro h
    refine ⟨fun j hj => ?_, ?_⟩
    · rw [h j (by omega), hrom j (by omega), if_neg (by omega)]
    · rw [h k (by omega), hrom k hk, if_pos rfl]
  · rintro ⟨h, hd⟩ j hj
    rw [hrom j (by omega)]
    split
    · rename_i hjk
      rw [hjk, hd]
    · exact h j (by omega)

/-- The table's bit keeps the pass on its way. -/
theorem OnPath.step (h : OnPath S old ld rom k last) (hd : NextBit S old ld rom k d z) (hk : k < 64)
    (hrom : ∀ j, j < 64 → rom'.getLsbD j = if j = k then d else rom.getLsbD j) :
    OnPath S old ld rom' (k + 1) (if z then k + 1 else last) := by
  have hbit : rom'.getLsbD k = d := by rw [hrom k hk, if_pos rfl]
  have hother : ∀ j, j < 64 → j ≠ k → rom'.getLsbD j = rom.getLsbD j := fun j hj hne => by rw [hrom j hj, if_neg hne]
  have hsame : ∀ q, q ≤ k → agreeBelow rom rom' q := fun q hq j hj => (hother j (by omega) (by omega)).symm
  have hsame' : ∀ q, q ≤ k → agreeBelow rom' rom q := fun q hq j hj => hother j (by omega) (by omega)
  have hzero : zeroBranch S rom' (k + 1) ↔ z = true := by
    rw [hd.zero]
    constructor
    · rintro ⟨-, -, h0, x, hx, hbelow, hx1⟩
      exact ⟨hbit.symm.trans h0, x, hx, (agreeBelow_congr (hsame k le_rfl)).2 hbelow, hx1⟩
    · rintro ⟨h0, x, hx, hbelow, hx1⟩
      exact ⟨by omega, by omega, hbit.trans h0, x, hx, (agreeBelow_congr (hsame k le_rfl)).1 hbelow, hx1⟩
  refine ⟨?live, fun j hj hj64 => ?rest, fun j hj hjld => ?retrace, fun h1 hldk => ?branch,
    fun j hldj hj hj1 x hx hbelow => ?least, ?last_le, fun hne => ?last_zero, fun q hq hqz => ?last_max⟩
  case live =>
    obtain ⟨x, hx, hbelow, hxd⟩ := hd.live
    exact ⟨x, hx, (agreeBelow_succ hk hrom).2 ⟨hbelow, hxd⟩⟩
  case rest => rw [hother j hj64 (by omega), h.rest j (by omega) hj64]
  case retrace =>
    by_cases hjk : j = k
    · subst hjk
      rw [hbit, hd.retrace hjld]
    · rw [hother j (by omega) hjk, h.retrace j (by omega) hjld]
  case branch =>
    by_cases hlast : ld = k + 1
    · rw [hlast, Nat.add_sub_cancel, hbit, hd.branch hlast.symm]
    · rw [hother _ (by omega) (by omega), h.branch h1 (by omega)]
  case least =>
    by_cases hjk : j = k
    · subst hjk
      exact hd.least hldj (hbit.symm.trans hj1) x hx ((agreeBelow_congr (hsame j le_rfl)).2 hbelow)
    · rw [hother j (by omega) hjk] at hj1
      exact h.least j hldj (by omega) hj1 x hx ((agreeBelow_congr (hsame j (by omega))).2 hbelow)
  case last_le =>
    have := h.last_le
    split <;> omega
  case last_zero =>
    by_cases hz : z = true
    · rw [if_pos hz]
      exact hzero.2 hz
    · rw [if_neg hz] at hne ⊢
      exact zeroBranch_congr (hsame last h.last_le) (h.last_zero hne)
  case last_max =>
    by_cases hz : z = true
    · rw [if_pos hz]
      exact hq
    · rw [if_neg hz]
      by_cases hqk : q = k + 1
      · subst hqk
        exact absurd (hzero.1 hqz) hz
      · exact h.last_max q (by omega) (zeroBranch_congr (hsame' q (by omega)) hqz)

/-! ### The direction table -/

/-- Before LD the identifier found before is among those that still agree. -/
theorem OnPath.old_live (h : OnPath S old ld rom k last) (hold : leavesAt S old ld) (hk : k < ld) :
    old ∈ S ∧ agreeBelow old rom k := by
  obtain ⟨hmem, -⟩ := hold (by omega)
  exact ⟨hmem, fun j hj => (h.retrace j hj (by omega)).symm⟩

/-- At LD some device that still agrees has a 1 (R152). -/
theorem OnPath.one_live (h : OnPath S old ld rom k last) (hold : leavesAt S old ld) (hk : k + 1 = ld) :
    ∃ x ∈ S, agreeBelow x rom k ∧ x.getLsbD k = true := by
  obtain ⟨-, hlast⟩ := hold (by omega)
  obtain ⟨-, -, -, x, hx, hbelow, hx1⟩ := zeroBranch_of_lastBranch hlast (by omega)
  rw [← hk, Nat.add_sub_cancel] at hbelow hx1
  exact ⟨x, hx, (agreeBelow_congr fun j hj => (h.retrace j hj (by omega)).symm).1 hbelow, hx1⟩

/-- Rows 1 and 2 of R143: the bit that all agreeing devices share. -/
theorem OnPath.forced (h : OnPath S old ld rom k last) (hold : leavesAt S old ld)
    (hall : ∀ x ∈ S, agreeBelow x rom k → x.getLsbD k = d) : NextBit S old ld rom k d false := by
  refine ⟨?live, fun hld => ?retrace, fun hld => ?branch, fun _ h1 x hx hbelow => ?least, ?zero⟩
  case live =>
    obtain ⟨x, hx, hbelow⟩ := h.live
    exact ⟨x, hx, hbelow, hall x hx hbelow⟩
  case retrace =>
    obtain ⟨hmem, hbelow⟩ := h.old_live hold (by omega)
    exact (hall old hmem hbelow).symm
  case branch =>
    obtain ⟨x, hx, hbelow, hx1⟩ := h.one_live hold hld
    exact (hall x hx hbelow).symm.trans hx1
  case least => exact (hall x hx hbelow).trans h1
  case zero =>
    simp only [Bool.false_eq_true, false_iff]
    rintro ⟨h0, x, hx, hbelow, hx1⟩
    rw [hall x hx hbelow, h0] at hx1
    cases hx1

/-- Rows 3 to 5 of R143: at a discrepancy the old bit before LD, 1 at LD, 0 after it. -/
theorem nextBit_discrepancy (hboth : ∀ b, ∃ x ∈ S, agreeBelow x rom k ∧ x.getLsbD k = b)
    (hretrace : k + 1 < ld → d = old.getLsbD k) (hbranch : k + 1 = ld → d = true) (hafter : ld ≤ k → d = false) :
    NextBit S old ld rom k d !d :=
  { live := hboth d, retrace := hretrace, branch := hbranch
    least := fun hld h1 => by rw [hafter hld] at h1; cases h1
    zero := by simp [hboth true] }

/-! ### The end of the way -/

theorem eq_of_agreeBelow {x : Ident} (h : agreeBelow x rom 64) : x = rom :=
  BitVec.eq_of_getLsbD_eq fun j hj => h j hj

section
variable (h : OnPath S old ld rom 64 last)
include h

/-- The pass found a device. -/
theorem OnPath.mem : rom ∈ S := by
  obtain ⟨x, hx, hbelow⟩ := h.live
  rwa [← eq_of_agreeBelow hbelow]

theorem OnPath.lastBranch : lastBranch S rom last := by
  by_cases hz : last = 0
  · subst hz
    refine .inl ⟨rfl, fun q hq => ?_⟩
    have hle := h.last_max q hq.2.1 hq
    have hpos := hq.1
    omega
  · exact .inr ⟨h.last_zero hz, fun q hq => h.last_max q hq.2.1 hq⟩

/-- Of the devices that agree up to LD, the pass found the least. -/
theorem OnPath.least_agreeing {x : Ident} (hx : x ∈ S) (hagree : agreeBelow x rom ld) :
    x = rom ∨ precedes rom x := by
  by_cases heq : x = rom
  · exact .inl heq
  · rcases precedes_or_precedes heq with ⟨k, hk, hbelow, hx0, h1⟩ | hlt
    · exfalso
      by_cases hld : k < ld
      · rw [hagree k hld, h1] at hx0
        cases hx0
      · rw [h.least k (by omega) hk h1 x hx hbelow] at hx0
        cases hx0
    · exact .inr hlt

/-- Before LD the pass kept the bits of the identifier found before, and took 1 at LD, where that has 0. -/
theorem OnPath.retraced (hold : leavesAt S old ld) (hld : ld ≠ 0) :
    agreeBelow old rom (ld - 1) ∧ rom.getLsbD (ld - 1) = true ∧ old.getLsbD (ld - 1) = false := by
  obtain ⟨-, hlast⟩ := hold hld
  obtain ⟨h1, h64, h0, -⟩ := zeroBranch_of_lastBranch hlast hld
  exact ⟨fun j hj => (h.retrace j (by omega) (by omega)).symm, h.branch h1 h64, h0⟩

theorem OnPath.after_old (hold : leavesAt S old ld) (hld : ld ≠ 0) : precedes old rom := by
  obtain ⟨hbelow, h1, h0⟩ := h.retraced hold hld
  obtain ⟨-, hlast⟩ := hold hld
  obtain ⟨hpos, h64, -⟩ := zeroBranch_of_lastBranch hlast hld
  exact ⟨ld - 1, by omega, hbelow, h0, h1⟩

/-- Of the devices after the one found before, the pass found the least. -/
theorem OnPath.least_after_old (hold : leavesAt S old ld) (hld : ld ≠ 0) {x : Ident} (hx : x ∈ S)
    (hafter : precedes old x) : x = rom ∨ precedes rom x := by
  obtain ⟨hkept, hone, -⟩ := h.retraced hold hld
  obtain ⟨-, hlast⟩ := hold hld
  obtain ⟨k, hk, hbelow, h0, h1⟩ := hafter
  have hkld : k + 1 ≤ ld := by
    rcases hlast with ⟨hz, -⟩ | ⟨-, hmax⟩
    · exact absurd hz hld
    · exact hmax (k + 1) ⟨by omega, by omega, h0, x, hx, fun j hj => (hbelow j hj).symm, h1⟩
  have hagree : agreeBelow x rom k := fun j hj => (hbelow j hj).symm.trans (hkept j (by omega))
  by_cases hat : k + 1 = ld
  · refine h.least_agreeing hx fun j hj => ?_
    by_cases hjk : j = k
    · rw [hjk, h1, ← hone, ← hat, Nat.add_sub_cancel]
    · exact hagree j (by omega)
  · exact .inr ⟨k, hk, fun j hj => (hagree j hj).symm, (hkept k (by omega)).symm.trans h0, h1⟩

end

end

end Sys2Proof.Machine
end

section
/-! A pass over the reference bus (spec/20_memory.md R67, spec/41_search.md R134, R135, R143): what its primitives
answer, and one round after another along the way of `OnPath`. -/

namespace Sys2Proof.Machine

/-! ### The bus in the pattern of R67 -/

/-- The reference bus with devices `S` and no faults; `live` take part in the search that stands at `mode`. -/
structure BusAt (S live : List Ident) (mode : BusMode) (e : Env) : Prop where
  level : e.level = .reference
  devices : e.bus.devices = S
  live : e.bus.live = live
  mode : e.bus.mode = mode
  overlay : e.bus.overlay = []


section
variable {S L : List Ident} {s : State} {q : Nat}

/-- A primitive on the reference bus without faults completes with what the devices answer. -/
theorem primOutcome_reference (p : Prim) (hl : s.env.level = .reference) (ho : s.env.bus.overlay = []) :
    ∃ free v, primOutcome p s = .ok v ∧ v = reported p (busAnswer s.params p s.env.bus free).1 ∧
      (primRun s.params p s.env).2.level = .reference ∧
      (primRun s.params p s.env).2.bus = (busAnswer s.params p s.env.bus free).2 := by
  refine ⟨_, _, by rw [primOutcome, primRun_reference s.params p hl ho], rfl, by rw [primRun_level, hl], ?_⟩
  rw [primRun_reference s.params p hl ho]

/-- The bus reset finds the devices, if there are any, and makes them all live (R67.1). -/
theorem primOutcome_reset_reference (hS : onReference S s) :
    ∃ e v, primOutcome .reset s = .ok v ∧ v.short = false ∧ v.presence = true ∧ BusAt S S .afterReset e ∧
      afterPrim .reset s = withEnv e { s with busSync := true } := by
  obtain ⟨hl, hdev, ho, hne⟩ := hS
  obtain ⟨free, v, hv, rfl, hl', hbus⟩ := primOutcome_reference .reset hl ho
  refine ⟨_, _, hv, rfl, ?_, ⟨hl', ?_, ?_, ?_, ?_⟩, afterPrim_ok hv⟩
  · simpa [reported, busAnswer, hdev] using hne
  all_goals rw [hbus]; simp [busAnswer, hdev, ho]

/-- A primitive in the pattern of R67, once its answer and the bus after it are known. -/
theorem BusAt.issue {mode : BusMode} (h : BusAt S L mode s.env) {p : Prim} (hp : p ≠ .reset) :
    ∃ e free v, primOutcome p s = .ok v ∧ afterPrim p s = withEnv e s ∧ e.level = .reference ∧
      v = reported p (busAnswer s.params p s.env.bus free).1 ∧ e.bus = (busAnswer s.params p s.env.bus free).2 := by
  obtain ⟨free, v, hv, hrep, hl, hbus⟩ := primOutcome_reference p h.level h.overlay
  exact ⟨_, free, v, hv, afterPrim_of_ok hp hv, hl, hrep, hbus⟩

theorem BusAt.command (h : BusAt S L .afterReset s.env) :
    ∃ e v, primOutcome (.writeByte s.params.searchCmd) s = .ok v ∧ BusAt S L (.search 1 0) e ∧
      afterPrim (.writeByte s.params.searchCmd) s = withEnv e s := by
  obtain ⟨e, free, v, hv, hafter, hl, -, hbus⟩ := h.issue (p := .writeByte s.params.searchCmd) (by simp)
  rw [busAnswer_searchCommand _ _ h.mode] at hbus
  refine ⟨e, v, hv, ⟨hl, ?_, ?_, ?_, ?_⟩, hafter⟩ <;> rw [hbus]
  exacts [h.devices, h.live, h.overlay]

theorem BusAt.firstRead (h : BusAt S L (.search q 0) s.env) :
    ∃ e v, primOutcome .readBit s = .ok v ∧ v.bit = wiredAnd L (q - 1) ∧ BusAt S L (.search q 1) e ∧
      afterPrim .readBit s = withEnv e s := by
  obtain ⟨e, free, v, hv, hafter, hl, hrep, hbus⟩ := h.issue (p := .readBit) (by simp)
  rw [busAnswer_firstRead _ _ h.mode] at hrep hbus
  rw [h.live] at hrep
  refine ⟨e, v, hv, by rw [hrep]; rfl, ⟨hl, ?_, ?_, ?_, ?_⟩, hafter⟩ <;> rw [hbus]
  exacts [h.devices, h.live, h.overlay]

theorem BusAt.secondRead (h : BusAt S L (.search q 1) s.env) :
    ∃ e v, primOutcome .readBit s = .ok v ∧ v.bit = wiredAndNot L (q - 1) ∧ BusAt S L (.search q 2) e ∧
      afterPrim .readBit s = withEnv e s := by
  obtain ⟨e, free, v, hv, hafter, hl, hrep, hbus⟩ := h.issue (p := .readBit) (by simp)
  rw [busAnswer_secondRead _ _ h.mode] at hrep hbus
  rw [h.live] at hrep
  refine ⟨e, v, hv, by rw [hrep]; rfl, ⟨hl, ?_, ?_, ?_, ?_⟩, hafter⟩ <;> rw [hbus]
  exacts [h.devices, h.live, h.overlay]

/-- Where the devices stand after `q` positions (R67.4). -/
def modeAfter (q : Nat) : BusMode := if q < 64 then .search (q + 1) 0 else .offPattern

theorem BusAt.narrows (h : BusAt S L (.search q 2) s.env) (d : Bool) :
    ∃ e v, primOutcome (.writeBit d) s = .ok v ∧
      BusAt S (L.filter fun x => x.getLsbD (q - 1) == d) (modeAfter q) e ∧
      afterPrim (.writeBit d) s = withEnv e s := by
  obtain ⟨e, free, v, hv, hafter, hl, -, hbus⟩ := h.issue (p := .writeBit d) (by simp)
  rw [busAnswer_narrows _ _ _ h.mode] at hbus
  refine ⟨e, v, hv, ⟨hl, ?_, ?_, ?_, ?_⟩, hafter⟩ <;> rw [hbus]
  exacts [h.devices, by rw [narrow, h.live], rfl, h.overlay]

/-! ### One round -/

/-- The controller with both bits of position `q` latched, as the devices `L` answer them. -/
def withPair (L : List Ident) (q : Nat) (s : State) : State :=
  latchCmp (wiredAndNot L (q - 1)) (latchId (wiredAnd L (q - 1)) s)

/-- A round on the reference bus whose pair gives the direction `d`. -/
theorem roundThen_reference {k : State → Host.Outcome State Fault Refusal} {d : Bool}
    (h : BusAt S L (.search q 0) s.env)
    (hpair : ((withPair L q s).idBit && (withPair L q s).cmpBit) = false)
    (hdir : chooseDir (withPair L q s) = some d) :
    ∃ e, BusAt S (L.filter fun x => x.getLsbD (q - 1) == d) (modeAfter q) e ∧
      roundThen k s = k (nextPosition (withEnv e (recordDir d (withPair L q s)))) := by
  obtain ⟨e1, v1, hv1, hbit1, hbus1, hafter1⟩ := h.firstRead
  obtain ⟨e2, v2, hv2, hbit2, hbus2, hafter2⟩ :=
    BusAt.secondRead (s := latchId (wiredAnd L (q - 1)) (withEnv e1 s)) hbus1
  obtain ⟨e3, v3, hv3, hbus3, hafter3⟩ :=
    BusAt.narrows (s := recordDir d (withEnv e2 (withPair L q s))) hbus2 d
  refine ⟨e3, hbus3, ?_⟩
  unfold roundThen
  simp only [hv1, hafter1, hbit1, hv2, hafter2, hbit2]
  have hs2 : latchCmp (wiredAndNot L (q - 1)) (withEnv e2 (latchId (wiredAnd L (q - 1)) (withEnv e1 s))) =
      withEnv e2 (withPair L q s) := rfl
  have hd2 : chooseDir (withEnv e2 (withPair L q s)) = some d := hdir
  rw [hs2, if_neg (by simpa using hpair), hd2]
  simp only [hv3, hafter3]
  rfl

end

/-- The pair that `L` answers at index `k` gives the direction `d`, and it is the table's (R143) in a pass that began
in `s0`. -/
def GivesDirection (S : List Ident) (s0 : State) (k : Nat) (L : List Ident) (s : State) (d : Bool) : Prop :=
  ((withPair L (k + 1) s).idBit && (withPair L (k + 1) s).cmpBit) = false ∧
    chooseDir (withPair L (k + 1) s) = some d ∧
    NextBit S s0.rom s0.ld.toNat s.rom k d (((withPair L (k + 1) s).idBit == (withPair L (k + 1) s).cmpBit) && !d)

/-! ### A pass under way -/

/-- The loop of a pass that began in `s0`, after `k` positions, on the reference bus with devices `S`. -/
structure Searching (S : List Ident) (s0 : State) (k : Nat) (s : State) : Prop where
  bus : ∃ live, BusAt S live (modeAfter k) s.env ∧ ∀ x, x ∈ live ↔ x ∈ S ∧ agreeBelow x s.rom k
  n : s.n.toNat = k + 1
  ld : s.ld = s0.ld
  exh : s.exh = false
  idOut : s.idOut = s0.idOut
  idWritten : s.idWritten = s0.idWritten
  arrivals : s.arrivals = []
  written : ∀ j, j < 64 → j < k ∨ s0.ld ≠ 0#7 → s.romWritten.getLsbD j = true
  path : OnPath S s0.rom s0.ld.toNat s.rom k s.lastZero.toNat

section
variable {S L : List Ident} {s s0 : State} {k : Nat}

/-- Where the live devices agree, the pair is their bit and its inverse, and forces the direction. -/
theorem Searching.forced (h : Searching S s0 k s) (hold : leavesAt S s0.rom s0.ld.toNat)
    (hlive : ∀ x, x ∈ L ↔ x ∈ S ∧ agreeBelow x s.rom k) {b : Bool} (hb : ∀ x ∈ L, x.getLsbD k = b) :
    GivesDirection S s0 k L s b := by
  obtain ⟨x, hx, hbelow⟩ := h.path.live
  obtain ⟨-, hagree, -⟩ := wiredAndAnswersByLiveSet L k
  obtain ⟨hid, hcmp⟩ := hagree b (List.ne_nil_of_mem ((hlive x).2 ⟨hx, hbelow⟩)) hb
  obtain ⟨hpair, hdir, hmark⟩ := chooseDir_table (s := withPair L (k + 1) s) (d := b) (mark := false) (by
    cases b
    · exact .inl ⟨hid, hcmp, rfl, rfl⟩
    · exact .inr (.inl ⟨hid, hcmp, rfl, rfl⟩))
  exact ⟨hpair, hdir, hmark ▸ h.path.forced hold fun y hy hyb => hb y ((hlive y).2 ⟨hy, hyb⟩)⟩

/-- Where both bits are live, the pair reads 0, 0 and the direction is that of R143. -/
theorem Searching.discrepancy (h : Searching S s0 k s) (hk : k < 64)
    (hlive : ∀ x, x ∈ L ↔ x ∈ S ∧ agreeBelow x s.rom k) (hmixed : ∀ b, ∃ x ∈ L, x.getLsbD k = b) :
    ∃ d, GivesDirection S s0 k L s d := by
  obtain ⟨y, hy, hy0⟩ := hmixed false
  obtain ⟨x, hx, hx1⟩ := hmixed true
  obtain ⟨-, -, hzeros⟩ := wiredAndAnswersByLiveSet L k
  obtain ⟨hid, hcmp⟩ := hzeros x hx y hy hx1 hy0
  have hboth : ∀ b, ∃ x ∈ S, agreeBelow x s.rom k ∧ x.getLsbD k = b := fun b => by
    obtain ⟨x, hx, hxb⟩ := hmixed b
    exact ⟨x, ((hlive x).1 hx).1, ((hlive x).1 hx).2, hxb⟩
  have hld : (withPair L (k + 1) s).ld = s0.ld := h.ld
  have hn : (withPair L (k + 1) s).n.toNat = k + 1 := h.n
  have hcursor : cursorIndex (withPair L (k + 1) s) = k := by
    rw [cursorIndex_eq _ (by rw [hn]; omega), hn, Nat.add_sub_cancel]
  have hrow := fun d => chooseDir_table (s := withPair L (k + 1) s) (d := d) (mark := !d)
  rw [hcursor, hn, hld] at hrow
  rcases Nat.lt_trichotomy (k + 1) s0.ld.toNat with hlt | heq | hgt
  · have hwritten : s.romWritten.getLsbD k = true := h.written k hk (.inr fun hz => by simp [hz] at hlt)
    obtain ⟨hpair, hdir, hmark⟩ := hrow _ (.inr (.inr ⟨hid, hcmp, .inl ⟨hlt, hwritten, rfl, rfl⟩⟩))
    have hbit : s.rom.getLsbD k = s0.rom.getLsbD k := h.path.rest k le_rfl hk
    exact ⟨_, hpair, hdir, hmark ▸ nextBit_discrepancy hboth (fun _ => hbit) (by omega) (by omega)⟩
  · have hat : (withPair L (k + 1) s).n = s0.ld := BitVec.eq_of_toNat_eq (hn.trans heq)
    obtain ⟨hpair, hdir, hmark⟩ := hrow true (.inr (.inr ⟨hid, hcmp, .inr (.inl ⟨hat, rfl, rfl⟩)⟩))
    exact ⟨_, hpair, hdir, hmark ▸ nextBit_discrepancy hboth (by omega) (fun _ => rfl) (by omega)⟩
  · obtain ⟨hpair, hdir, hmark⟩ := hrow false (.inr (.inr ⟨hid, hcmp, .inr (.inr ⟨hgt, rfl, rfl⟩)⟩))
    exact ⟨_, hpair, hdir, hmark ▸ nextBit_discrepancy hboth (by omega) (by omega) (fun _ => rfl)⟩

/-- The pair the bus answers gives a direction, and it is the table's (R143). -/
theorem Searching.direction (h : Searching S s0 k s) (hold : leavesAt S s0.rom s0.ld.toNat) (hk : k < 64)
    (hlive : ∀ x, x ∈ L ↔ x ∈ S ∧ agreeBelow x s.rom k) : ∃ d, GivesDirection S s0 k L s d := by
  by_cases hagree : ∃ b, ∀ x ∈ L, x.getLsbD k = b
  · obtain ⟨b, hb⟩ := hagree
    exact ⟨b, h.forced hold hlive hb⟩
  · refine h.discrepancy hk hlive fun b => ?_
    by_contra hnone
    push Not at hnone
    exact hagree ⟨!b, fun x hx => Bool.eq_not_of_ne (hnone x hx)⟩

/-- One turn of the loop takes the pass one position further on its way. -/
theorem Searching.round (h : Searching S s0 k s) (hold : leavesAt S s0.rom s0.ld.toNat) (hk : k < 64) (left : Nat) :
    ∃ t, ruleLoop (left + 1) s = ruleLoop left t ∧ Searching S s0 (k + 1) t := by
  obtain ⟨live, hbus, hlive⟩ := h.bus
  rw [modeAfter, if_pos hk] at hbus
  obtain ⟨d, hpair, hdir, hnext⟩ := h.direction hold hk hlive
  obtain ⟨e, hbus', hround⟩ := roundThen_reference (k := ruleLoop left) hbus hpair hdir
  refine ⟨_, (ruleLoop_succ left s).trans hround, ?_⟩
  have hn : (withPair live (k + 1) s).n.toNat = k + 1 := h.n
  have hrom : ∀ j, j < 64 → (recordDir d (withPair live (k + 1) s)).rom.getLsbD j =
      if j = k then d else s.rom.getLsbD j := by
    intro j hj
    rw [recordDir_rom_bit d (by omega) hj, hn, Nat.add_sub_cancel]
    rfl
  have hlast : (recordDir d (withPair live (k + 1) s)).lastZero.toNat =
      if ((withPair live (k + 1) s).idBit == (withPair live (k + 1) s).cmpBit) && !d then k + 1
      else s.lastZero.toNat := by
    rw [recordDir_lastZero, apply_ite BitVec.toNat, hn]
    rfl
  exact
    { bus := by
        refine ⟨_, hbus', fun x => ?_⟩
        rw [List.mem_filter, hlive, Nat.add_sub_cancel, beq_iff_eq, and_assoc]
        exact and_congr_right fun _ => (agreeBelow_succ hk hrom).symm
      n := by
        have hnk := h.n
        show (s.n + 1#7).toNat = _
        bv_omega
      ld := h.ld, exh := h.exh, idOut := h.idOut, idWritten := h.idWritten, arrivals := h.arrivals
      written := fun j hj hor => by
        show (recordDir d (withPair live (k + 1) s)).romWritten.getLsbD j = true
        rw [recordDir_romWritten_bit d (by omega) hj, hn, Nat.add_sub_cancel, Bool.or_eq_true, decide_eq_true_eq]
        exact or_iff_not_imp_left.2 fun hjk => h.written j hj (hor.imp_left fun _ => by omega)
      path := by
        have hpath := h.path.step hnext hk hrom
        rwa [← hlast] at hpath }

/-- The loop runs to its end. -/
theorem Searching.rounds (h : Searching S s0 k s) (hold : leavesAt S s0.rom s0.ld.toNat) {left : Nat}
    (hleft : k + left = 64) : ∃ t, ruleLoop left s = ruleEnd t ∧ Searching S s0 64 t := by
  induction left generalizing k s with
  | zero => exact ⟨s, rfl, by rwa [← hleft]⟩
  | succ left ih =>
    obtain ⟨u, hu, hsearch⟩ := h.round hold (by omega) left
    obtain ⟨t, ht, hend⟩ := ih hsearch (by omega)
    exact ⟨t, hu.trans ht, hend⟩

end

end Sys2Proof.Machine
end

section
/-! `ENUM_NEXT` on the reference bus (spec/41_search.md R151 to R153): one call takes the whole way of its pass, and
repeated calls visit the devices in search order. -/

namespace Sys2Proof.Machine

section
variable {S : List Ident} {s s0 t u : State}

/-! ### A whole pass -/

/-- A present bus that is not short is searched. -/
theorem enumRule_present {v : PrimValue} (hx : s.exh = false) (hv : primOutcome .reset s = .ok v)
    (hshort : v.short = false) (hpres : v.presence = true) :
    enumRule s = ruleFromSearch (latchReset true false (afterPrim .reset s)) := by
  rw [enumRule, if_neg (by simp [hx]), hv]
  simp only [hshort, hpres]
  rfl

theorem OnPath.start {old : Ident} {ld : Nat} (hne : S ≠ []) : OnPath S old ld old 0 0 := by
  obtain ⟨x, hx⟩ := List.exists_mem_of_ne_nil S hne
  exact
    { live := ⟨x, hx, fun _ hj => absurd hj (Nat.not_lt_zero _)⟩, rest := fun _ _ _ => rfl
      retrace := fun _ hj => absurd hj (Nat.not_lt_zero _), branch := fun h1 h0 => absurd h0 (by omega)
      least := fun _ _ hj => absurd hj (Nat.not_lt_zero _), last_le := le_rfl, last_zero := fun h => absurd rfl h
      last_max := fun _ hq _ => hq }

/-- What R152 keeps between two calls, as a pass uses it. -/
theorem leavesAt_of_onTrack (h : onTrack S s) : leavesAt S s.rom s.ld.toNat := by
  intro hld
  rcases h with hz | ⟨-, hmem, hlast⟩
  · simp [hz] at hld
  · exact ⟨hmem, hlast⟩

theorem romWritten_of_onTrack (h : onTrack S s) (hld : s.ld ≠ 0#7) : s.romWritten = BitVec.allOnes 64 := by
  rcases h with hz | ⟨hw, -⟩
  · exact absurd hz hld
  · exact hw

/-- On the reference bus a pass from a state on track takes its whole way to the row E_FINISH. -/
theorem enumNext_reference (hquiet : undisturbed s) (hS : onReference S s) (htrack : onTrack S s)
    (hx : s.exh = false) : ∃ u, exec .enumNext s = finishRow u ∧ Searching S s 64 u := by
  obtain ⟨hi, ha⟩ := hquiet
  obtain ⟨e, v, hv, hshort, hpres, hbus, hafter⟩ := primOutcome_reset_reference hS
  obtain ⟨e', v', hv', hbus', hafter'⟩ :=
    BusAt.command (s := latchReset true false (withEnv e { s with busSync := true })) hbus
  obtain ⟨-, -, -, hne⟩ := hS
  have hstart : Searching S s 0
      (startRounds (withEnv e' (latchReset true false (withEnv e { s with busSync := true })))) :=
    { bus := ⟨S, hbus', fun x => (and_iff_left fun _ hj => absurd hj (Nat.not_lt_zero _)).symm⟩
      n := rfl, ld := rfl, exh := hx, idOut := rfl, idWritten := rfl, arrivals := ha
      written := fun j hj hor => by
        have hall := romWritten_of_onTrack htrack (hor.resolve_left (Nat.not_lt_zero _))
        show s.romWritten.getLsbD j = true
        rw [hall, BitVec.getLsbD_allOnes, decide_eq_true hj]
      path := OnPath.start hne }
  obtain ⟨u, hu, hend⟩ := hstart.rounds (leavesAt_of_onTrack htrack) (left := 64) rfl
  refine ⟨u, ?_, hend⟩
  rw [sequencerRefinesTheOneRule s ⟨hi, ha⟩, enumRule_present hx hv hshort hpres, hafter, ruleFromSearch, hv', hafter',
    ← ruleEnd_eq_finishRow]
  exact hu

section
variable (h : Searching S s0 64 u)
include h

theorem Searching.romWritten : u.romWritten = BitVec.allOnes 64 :=
  eq_allOnes_of_bits _ fun j hj => h.written j hj (.inl hj)

/-- The row E_FINISH after a whole way finds the identifier of that way, unless its family code is 0. -/
theorem Searching.finishRow_cases :
    (idByte u.rom 0 = 0x00#8 ∧
      finishRow u = .next (complete .zeroFamily false true false (clearSearch (endPass u)))) ∨
    (idByte u.rom 0 ≠ 0x00#8 ∧ finishRow u = .next (complete .ok true true false (publishId (endPass u)))) := by
  rcases Machine.finishRow_cases u with ⟨hzero, -, hr⟩ | ⟨hfam, -, hr⟩ | ⟨hw, -⟩
  · exact .inl ⟨hzero, hr⟩
  · exact .inr ⟨hfam, hr⟩
  · exact absurd h.romWritten hw

/-- The bus is still the same after the pass. -/
theorem Searching.onReference (hne : S ≠ []) (henv : t.env = u.env) : onReference S t := by
  obtain ⟨live, hbus, -⟩ := h.bus
  rw [Machine.onReference, henv]
  exact ⟨hbus.level, hbus.devices, hbus.overlay, hne⟩

end

end

/-- Settles O43, by the invariant of the pass: at its end the bits chosen are those of the next device. -/
theorem enumNextFindsTheNextDevice : Obligations.EnumNextFindsTheNextDevice := by
  intro S s hquiet hS htrack hx hld64 hfam
  obtain ⟨u, hu, h⟩ := enumNext_reference hquiet hS htrack hx
  have hold := leavesAt_of_onTrack htrack
  have hld0 : s.ld.toNat = 0 ↔ s.ld = 0#7 := (BitVec.toNat_inj (y := 0#7))
  have hz : u.lastZero.toNat = 0 ↔ u.lastZero = 0#7 := (BitVec.toNat_inj (y := 0#7))
  obtain ⟨-, -, -, hne⟩ := hS
  rcases h.finishRow_cases with ⟨hzero, -⟩ | ⟨-, hr⟩
  · exact absurd hzero (hfam u.rom h.path.mem)
  · have hexh : (endPass u).exh = true ↔ u.lastZero = 0#7 := by simp [h.exh]
    refine ⟨_, hu.trans hr, rfl, rfl, rfl, h.path.mem, fun hz x hx => ?_, fun hnz => ⟨?_, fun x hx hafter => ?_⟩,
      h.romWritten, h.path.lastBranch, ?_, hexh, h.onReference hne rfl, rfl, h.arrivals⟩
    · exact h.path.least_agreeing hx (by rw [hld0.2 hz]; exact fun _ hj => absurd hj (Nat.not_lt_zero _))
    · exact h.path.after_old hold (mt hld0.1 hnz)
    · exact h.path.least_after_old hold (mt hld0.1 hnz) hx hafter
    · exact hexh.trans (hz.symm.trans (lastBranch_eq_zero h.path.lastBranch))

/-- Settles O44, by the same invariant: the way of the pass leaves that of the device before at LD. -/
theorem retraceReproducesThePrefix : Obligations.RetraceReproducesThePrefix := by
  intro S s t hquiet hS htrack hx hld hld64 hr hfound
  obtain ⟨u, hu, h⟩ := enumNext_reference hquiet hS htrack hx
  have hld0 : s.ld.toNat ≠ 0 := mt (BitVec.toNat_inj (y := 0#7)).1 hld
  obtain ⟨hkept, hone, hzero⟩ := h.path.retraced (leavesAt_of_onTrack htrack) hld0
  rw [hu] at hr
  rcases h.finishRow_cases with ⟨-, hf⟩ | ⟨-, hf⟩ <;> rw [hf] at hr <;> cases hr
  · exact absurd hfound (result_ne_found .zeroFamily true false)
  · exact ⟨fun k hk => (hkept k hk).symm, hone, hzero⟩

/-- A device with family code 0 comes before every device without. -/
theorem zero_family_of_precedes {d z : Ident} (hz : idByte z 0 = 0x00#8) (h : d = z ∨ precedes d z) :
    idByte d 0 = 0x00#8 := by
  rcases h with rfl | ⟨k, -, hbelow, -, h1⟩
  · exact hz
  · rw [idByte_zero_eq_zero] at hz ⊢
    intro j hj
    have hk : 8 ≤ k := by
      by_contra hlt
      rw [hz k (by omega)] at h1
      cases h1
    rw [hbelow j (by omega), hz j hj]

/-- Settles O46: the first device of the order has family code 0 if any has, and the pass finds it. -/
theorem zeroFamilyDeviceHidesEveryDevice : Obligations.ZeroFamilyDeviceHidesEveryDevice := by
  intro S s z hquiet hS hmem hzfam hld hx
  obtain ⟨u, hu, h⟩ := enumNext_reference hquiet hS (.inl hld) hx
  obtain ⟨-, -, -, hne⟩ := hS
  have hfirst : z = u.rom ∨ precedes u.rom z :=
    h.path.least_agreeing hmem (by rw [hld]; exact fun _ hj => absurd hj (Nat.not_lt_zero _))
  have hzero := zero_family_of_precedes hzfam (hfirst.imp_left Eq.symm)
  rcases h.finishRow_cases with ⟨-, hf⟩ | ⟨hfam, -⟩
  · exact ⟨_, hu.trans hf, rfl, rfl, rfl, rfl, h.idOut, h.idWritten, h.onReference hne rfl, rfl, h.arrivals⟩
  · exact absurd hzero hfam

end Sys2Proof.Machine
end

section
/-! Repeated `ENUM_NEXT` (spec/41_search.md R151): a list holds the devices still to be reported, in search order, and
each call takes its head. -/

namespace Sys2Proof.Machine

section
variable {S rest devices : List Ident} {s t u : State} {d : Ident}

/-- The devices that later calls of the same enumeration report (R152). -/
def yetToCome (S : List Ident) (s : State) (x : Ident) : Prop :=
  x ∈ S ∧ s.exh = false ∧ (s.ld = 0#7 ∨ precedes s.rom x)

/-- Between two calls, with the devices of `rest` still to be reported. -/
structure Enumerating (S rest : List Ident) (s : State) : Prop where
  quiet : undisturbed s
  reference : onReference S s
  track : onTrack S s
  ld_le : s.ld.toNat ≤ 64
  toCome : ∀ x, x ∈ rest ↔ yetToCome S s x

/-- An enumeration that has not begun. -/
theorem enumerating_of_cleared (hquiet : undisturbed s) (hS : onReference S s) (hld : s.ld = 0#7)
    (hx : s.exh = false) (hmem : ∀ x, x ∈ S ↔ x ∈ devices) : Enumerating S devices s :=
  { quiet := hquiet, reference := hS, track := .inl hld, ld_le := by simp [hld]
    toCome := fun x => by simp [yetToCome, hld, hx, hmem] }

theorem lastBranch_le {p : Nat} (h : lastBranch S d p) : p ≤ 64 := by
  rcases h with ⟨rfl, -⟩ | ⟨⟨-, h64, -⟩, -⟩
  · exact Nat.zero_le _
  · exact h64

/-- A call reports the head of the list and leaves its tail. -/
theorem Enumerating.next (h : Enumerating S (d :: rest) s) (hord : (d :: rest).Pairwise precedes)
    (hfam : ∀ x ∈ S, x.extractLsb' 0 8 ≠ 0x00#8) :
    ∃ t, exec .enumNext s = .next t ∧ t.result = 0x30#8 ∧ t.idOut = d ∧ (t.exh = true ↔ rest = []) ∧
      (t.ld = 0#7 ↔ rest = []) ∧ Enumerating S rest t := by
  obtain ⟨hdS, hx, hdfrom⟩ := (h.toCome d).1 List.mem_cons_self
  obtain ⟨hhead, -⟩ := List.pairwise_cons.1 hord
  obtain ⟨t, hr, hres, hid, -, hmem, hleast, hafter, hw, hlast, hexh, hexhld, hS, hquiet⟩ :=
    enumNextFindsTheNextDevice S s h.quiet h.reference h.track hx h.ld_le hfam
  have hfrom : s.ld = 0#7 ∨ precedes s.rom t.rom := or_iff_not_imp_left.2 fun hld => (hafter hld).1
  have hminimal : d = t.rom ∨ precedes t.rom d := by
    by_cases hld : s.ld = 0#7
    · exact hleast hld d hdS
    · exact (hafter hld).2 d hdS (hdfrom.resolve_left hld)
  have hrom : t.rom = d := by
    rcases List.mem_cons.1 ((h.toCome t.rom).2 ⟨hmem, hx, hfrom⟩) with heq | hlater
    · exact heq
    · rcases hminimal with heq | hbefore
      · exact heq.symm
      · exact absurd (precedes_trans (hhead _ hlater) hbefore) not_precedes_self
  rw [hrom] at hid hfrom hexh
  have htail : ∀ x, x ∈ rest ↔ yetToCome S t x := by
    intro x
    constructor
    · intro hxrest
      obtain ⟨hxS, -, -⟩ := (h.toCome x).1 (List.mem_cons_of_mem d hxrest)
      have hnotlast : t.exh = false := by
        by_contra hlast
        exact hexh.1 (by simpa using hlast) x hxS (hhead x hxrest)
      exact ⟨hxS, hnotlast, .inr (hrom ▸ hhead x hxrest)⟩
    · rintro ⟨hxS, hnotlast, hxfrom⟩
      have hlater : precedes d x := by
        rw [hrom] at hxfrom
        exact hxfrom.resolve_left fun hld => by simp [hexhld.2 hld] at hnotlast
      rcases List.mem_cons.1 ((h.toCome x).2 ⟨hxS, hx, hfrom.imp_right fun hd => precedes_trans hd hlater⟩) with
        heq | hin
      · exact absurd (heq ▸ hlater) not_precedes_self
      · exact hin
  have hend : t.exh = true ↔ rest = [] := by
    rw [List.eq_nil_iff_forall_not_mem]
    constructor
    · intro hlast x hxrest
      obtain ⟨-, hnotlast, -⟩ := (htail x).1 hxrest
      rw [hlast] at hnotlast
      cases hnotlast
    · intro hnone
      by_contra hnotlast
      exact hnotlast (hexh.2 fun x hxS hlater =>
        hnone x ((htail x).2 ⟨hxS, by simpa using hnotlast, .inr (hrom ▸ hlater)⟩))
  exact ⟨t, hr, hres, hid, hend, hexhld.symm.trans hend,
    { quiet := hquiet, reference := hS, track := .inr ⟨hw, hmem, hlast⟩, ld_le := lastBranch_le hlast
      toCome := htail }⟩

/-- When nothing is left to report, EXH is set. -/
theorem Enumerating.exhausted (h : Enumerating S [] s) : s.exh = true := by
  by_contra hx
  have hnone : ∀ x ∈ S, ¬ (s.ld = 0#7 ∨ precedes s.rom x) := fun x hxS hfrom =>
    List.not_mem_nil ((h.toCome x).2 ⟨hxS, by simpa using hx, hfrom⟩)
  obtain ⟨-, -, -, hne⟩ := h.reference
  obtain ⟨x, hxS⟩ := List.exists_mem_of_ne_nil S hne
  rcases h.track with hld | ⟨-, -, hlast⟩
  · exact hnone x hxS (.inl hld)
  · have hzero := (lastBranch_eq_zero hlast).2 fun y hyS hlater => hnone y hyS (.inr hlater)
    exact hnone x hxS (.inl (BitVec.toNat_inj.1 hzero))

/-! ### Several calls -/

theorem enumTimes_succ {k : Nat} (hr : exec .enumNext s = .next t) : enumTimes (k + 1) s = enumTimes k t := by
  rw [enumTimes, hr]

theorem enumTimes_add {j k : Nat} (hr : enumTimes j s = .next t) : enumTimes (j + k) s = enumTimes k t := by
  induction j generalizing s with
  | zero =>
    cases hr
    rw [Nat.zero_add]
  | succ j ih =>
    rw [enumTimes] at hr
    rw [Nat.succ_add, enumTimes]
    cases hexec : exec .enumNext s with
    | next u => rw [hexec] at hr; exact ih hr
    | fault f => rw [hexec] at hr; cases hr
    | refused r => rw [hexec] at hr; cases hr

/-- The calls report the list, one after another. -/
theorem Enumerating.visits (h : Enumerating S rest s) (hord : rest.Pairwise precedes)
    (hfam : ∀ x ∈ S, x.extractLsb' 0 8 ≠ 0x00#8) (i : Nat) (hi : rest[i]? = some d) :
    ∃ t, enumTimes (i + 1) s = .next t ∧ t.result = 0x30#8 ∧ t.idOut = d ∧
      (t.exh = true ↔ i + 1 = rest.length) ∧ (t.ld = 0#7 ↔ i + 1 = rest.length) := by
  induction rest generalizing s i with
  | nil => simp at hi
  | cons d0 rest ih =>
    obtain ⟨t, hr, hres, hid, hexh, hld, hnext⟩ := h.next hord hfam
    cases i with
    | zero =>
      have hlen : rest = [] ↔ 0 + 1 = (d0 :: rest).length := by simp
      obtain rfl : d0 = d := by simpa using hi
      exact ⟨t, enumTimes_succ hr, hres, hid, hexh.trans hlen, hld.trans hlen⟩
    | succ i =>
      obtain ⟨u, hu, hrest⟩ := ih hnext (List.pairwise_cons.1 hord).2 i (by simpa using hi)
      refine ⟨u, (enumTimes_succ hr).trans hu, ?_⟩
      simpa using hrest

/-- After as many calls nothing is left to report. -/
theorem Enumerating.visits_all (h : Enumerating S rest s) (hord : rest.Pairwise precedes)
    (hfam : ∀ x ∈ S, x.extractLsb' 0 8 ≠ 0x00#8) :
    ∃ t, enumTimes rest.length s = .next t ∧ Enumerating S [] t := by
  induction rest generalizing s with
  | nil => exact ⟨s, rfl, h⟩
  | cons d rest ih =>
    obtain ⟨t, hr, -, -, -, -, hnext⟩ := h.next hord hfam
    obtain ⟨u, hu, hend⟩ := ih hnext (List.pairwise_cons.1 hord).2
    exact ⟨u, (enumTimes_succ hr).trans hu, hend⟩

end

/-- Settles O45, by induction on the devices still to be reported; the exhausted call begins the enumeration again. -/
theorem enumerationVisitsEachDeviceOnceInOrder : Obligations.EnumerationVisitsEachDeviceOnceInOrder := by
  intro devices s hord hquiet hbus hfam hld hx
  obtain ⟨S, hS, hmem⟩ := hbus
  have hfamS : ∀ x ∈ S, x.extractLsb' 0 8 ≠ 0x00#8 := fun x hxS => hfam x ((hmem x).1 hxS)
  have hstart := enumerating_of_cleared hquiet hS hld hx hmem
  obtain ⟨u, hall, hend⟩ := hstart.visits_all hord hfamS
  obtain ⟨hidle, ha⟩ := hend.quiet
  have hexhausted := exhaustedEnumNextStartsOver u hidle hend.exhausted
  have hagain := enumerating_of_cleared (s := { u with ld := 0#7, lfd := 0#4, exh := false, result := 0x01#8 })
    ⟨hidle, ha⟩ hend.reference rfl rfl hmem
  refine ⟨fun i d hi => hstart.visits hord hfamS i hi,
    ⟨_, (enumTimes_add hall).trans (enumTimes_succ (k := 0) hexhausted), rfl, rfl, rfl, rfl⟩, fun d hd => ?_⟩
  obtain ⟨t, ht, hres, hid, -⟩ := hagain.visits hord hfamS 0 hd
  exact ⟨t, (enumTimes_add hall).trans ((enumTimes_succ (k := 1) hexhausted).trans ht), hres, hid⟩

end Sys2Proof.Machine
end

section
/-! Where the model faults of spec/60_exceptions.md R176 are raised and where they are not: an unwritten read exactly
where R177 says, and no stop at all for a host that keeps its duties. -/

namespace Sys2Proof.Machine

/-! ### A host that keeps its duties (R193 to R195) -/

section
variable {s : State} {i : Instr}

/-- A host command from an undisturbed state goes through, if BUS_SYNC is set where the command needs it. -/
theorem Inv.exec_goes_on (h : Inv s) (hquiet : undisturbed s) (hc : portOf i = .cmd)
    (hsync : i = .owWriteBit ∨ i = .owReadBit ∨ i = .owWriteByte ∨ i = .owReadByte → s.busSync = true) :
    ∃ t, exec i s = .next t := by
  obtain ⟨hi, ha⟩ := hquiet
  cases i with
  | owReset => exact ⟨_, exec_owReset hi ha⟩
  | owWriteBit => exact ⟨_, exec_owWriteBit hi ha (hsync (by simp))⟩
  | owReadBit => exact ⟨_, exec_owReadBit hi ha (hsync (by simp))⟩
  | owWriteByte => exact ⟨_, exec_owWriteByte hi ha (hsync (by simp))⟩
  | owReadByte => exact ⟨_, exec_owReadByte hi ha (hsync (by simp))⟩
  | enumNext =>
    obtain ⟨t, hrun, -⟩ := enumNextCompletesWithOneOutcome s h ⟨hi, ha⟩
    exact ⟨t, hrun⟩
  | searchReset => exact ⟨_, exec_searchReset hi⟩
  | illegal c => exact ⟨_, exec_illegal c hi⟩
  | brSetReadPointer | br1wReset | br1wSingleBit | br1wWriteByte | br1wReadByte | busSearchRom => simp [portOf] at hc

@[simp] theorem hostStore_phase (a v : Byte) (s : State) : (hostStore a v s).phase = s.phase := by
  unfold hostStore
  split <;> rfl

end

/-- Settles O49, by the host's next access; mid-command the invariant gives every ROM bit a row reads a value. -/
theorem dutifulHostIsNeverStopped : Obligations.DutifulHostIsNeverStopped := by
  refine ⟨fun s h hduty => ?idle, fun s h hi ha => ?row⟩
  case row =>
    rw [step_row hi ha]
    exact h.row_goes_on
  case idle =>
    obtain ⟨hi, ha, hnext⟩ := hduty
    have hquiet : undisturbed s := ⟨hi, ha⟩
    cases hhost : s.host with
    | nil => exact ⟨s, step_waits hi ha hhost, hi⟩
    | cons x rest =>
      rw [hhost] at hnext
      cases x with
      | read a =>
        obtain ⟨v, hv⟩ := Option.ne_none_iff_exists'.1 hnext
        exact ⟨_, step_read_value hquiet hhost hv, hi⟩
      | write a c =>
        by_cases h0 : a = 0x00#8
        · subst h0
          rw [stepRunsTheCommandWritten s c rest hquiet hhost]
          obtain ⟨t, ht⟩ := Inv.exec_goes_on (s := { s with host := rest }) { h with } hquiet (portOf_decodeCmd c)
            fun hneeds => hnext rfl (hneeds.imp (eq_of_decodeCmd · rfl) (Or.imp (eq_of_decodeCmd · rfl)
              (Or.imp (eq_of_decodeCmd · rfl) (eq_of_decodeCmd · rfl))))
          exact ⟨t, ht, everyCommandEndsInIdle _ t _ (portOf_decodeCmd c) ht⟩
        · exact ⟨_, step_store hquiet hhost h0, by rw [hostStore_phase]; exact hi⟩

/-! ### Reads without a value (R177) -/

/-- The registers without a value (spec/10_state.md R38), and no other address. -/
theorem peek_eq_none_iff {a : Byte} {s : State} :
    peek a s = none ↔ (a = 0x03#8 ∧ s.dataWritten = false) ∨ (0x08#8 ≤ a ∧ a ≤ 0x0F#8 ∧ s.idWritten = false) := by
  refine ⟨fun h => ?_, peek_unwritten⟩
  by_cases hlo : 8 ≤ a.toNat
  · rw [peek_from_eight s hlo] at h
    by_cases hhi : a.toNat ≤ 15
    · exact .inr ⟨hlo, hhi, by simpa [hhi] using h⟩
    · simp [hhi] at h
  · by_cases hdata : a = 0x03#8
    · exact .inl ⟨hdata, by simpa [peek, hdata] using h⟩
    · simp only [peek, hdata, hlo, false_and, if_false] at h
      split_ifs at h

theorem step_read_faults_iff {s : State} {a : Byte} {rest : List HostAccess} (hquiet : undisturbed s)
    (hhost : s.host = .read a :: rest) : step s = .fault .unwrittenRead ↔ peek a s = none := by
  cases hv : peek a s with
  | some v => simp [step_read_value hquiet hhost hv]
  | none => simp [step_read_unwritten hquiet hhost hv]

/-- A direction is missing exactly in a retrace, at a discrepancy, for an old bit without a value (R134.3). -/
theorem chooseDir_eq_none_iff {s : State} :
    chooseDir s = none ↔
      s.idBit = s.cmpBit ∧ s.n.toNat < s.ld.toNat ∧ s.romWritten.getLsbD (cursorIndex s) = false := by
  unfold chooseDir
  by_cases hpair : s.idBit = s.cmpBit
  · by_cases hlt : s.n.toNat < s.ld.toNat <;> simp [hpair, BitVec.lt_def, hlt, romBit]
  · simp [hpair]

theorem judgePair_faults_iff {s : State} :
    judgePair s = .fault .unwrittenRead ↔
      s.idBit = false ∧ s.cmpBit = false ∧ s.n.toNat < s.ld.toNat ∧ s.romWritten.getLsbD (cursorIndex s) = false := by
  have hfault : judgePair s = .fault .unwrittenRead ↔ (s.idBit && s.cmpBit) = false ∧ chooseDir s = none := by
    rcases judgePair_cases s with ⟨hi, hc, hr⟩ | ⟨d, hb, hd, hr⟩ | ⟨hb, hd, hr⟩ <;> simp [*]
  rw [hfault, chooseDir_eq_none_iff]
  cases s.idBit <;> cases s.cmpBit <;> simp

theorem ne_allOnes_iff {w : Nat} {x : BitVec w} : x ≠ BitVec.allOnes w ↔ ∃ k, k < w ∧ x.getLsbD k = false := by
  constructor
  · contrapose!
    exact fun h => BitVec.eq_of_getLsbD_eq fun k hk => by simpa [hk] using h k hk
  · rintro ⟨k, hk, hbit⟩ rfl
    simp [hk] at hbit

/-- E_FINISH stops at a bit of the family byte, or of the identifier it copies, that no pass wrote (R136, R137). -/
theorem finishRow_faults_iff {s : State} :
    finishRow s = .fault .unwrittenRead ↔
      idByte s.romWritten 0 ≠ BitVec.allOnes 8 ∨ (idByte s.rom 0 ≠ 0x00#8 ∧ s.romWritten ≠ BitVec.allOnes 64) := by
  unfold finishRow
  split
  · rename_i hbyte
    exact iff_of_true rfl (.inl hbyte)
  · rename_i hbyte
    rw [or_iff_right (show ¬ idByte s.romWritten 0 ≠ BitVec.allOnes 8 from hbyte)]
    by_cases hzero : idByte s.rom 0 = 0x00#8 <;> by_cases hall : s.romWritten = BitVec.allOnes 64 <;>
      simp [zeroFamily, hzero, hall]

/-- Settles O56: the register map, the choice of a direction and the end of a pass each say when a value is missing; no
other row knows a stop. -/
theorem unwrittenReadExactlyWhereNoValue : Obligations.UnwrittenReadExactlyWhereNoValue := by
  refine ⟨fun s a rest hquiet hhost => (step_read_faults_iff hquiet hhost).trans peek_eq_none_iff,
    fun s v hp ha hn1 _ hv => ?retrace, fun s hp ha => ?finish, fun s hi hcmp hfin ha hstop => ?other⟩
  case retrace =>
    rw [step_eRdCmp hp ha, readCmpRow, hv, ← cursorIndex_eq s hn1]
    exact judgePair_faults_iff (s := latchCmp v.bit (afterPrim .readBit s))
  case finish =>
    have hfamily : (∃ k, k < 8 ∧ (idByte s.romWritten 0).getLsbD k = false) ↔
        ∃ k, k < 8 ∧ s.romWritten.getLsbD k = false :=
      exists_congr fun k => and_congr_right fun hk => by rw [getLsbD_idByte_zero _ k hk]
    rw [step_eFinish hp ha, finishRow_faults_iff, ne_allOnes_iff, ne_allOnes_iff, hfamily]
    rfl
  case other =>
    rw [step_row hi ha] at hstop
    rcases runRow_stop s with ⟨t, hnext⟩ | ⟨-, hphase | hphase⟩
    · rw [hnext] at hstop
      cases hstop
    · exact hcmp hphase
    · exact hfin hphase

end Sys2Proof.Machine
end

section
/-! Reset and hazards (spec/70_reset_and_hazards.md R190 to R195): what the reset input leaves, where the faults
HOST_OVERLAP and HAZARD_BUS_UNDEFINED come from, and how BUS_SYNC follows the outcome a bus command reports. -/

namespace Sys2Proof.Machine

/-! ### Reset (R190, R191) -/

/-- The machine after power-on is one that the reset input has reset: the two have the same effect. -/
theorem resetController_reset : resetController State.reset = State.reset := rfl

/-- Settles O11: after power-on and after the reset input alike, the state is one that `resetController` leaves. -/
theorem resetLeavesTheStatedValues : Obligations.ResetLeavesTheStatedValues := by
  refine ⟨fun s hs => ?values, fun s0 rest ha => ⟨_, step_reset ha, rfl, rfl, rfl, rfl, rfl⟩,
    step_waits rfl rfl rfl⟩
  have hreset : ∃ u, s = resetController u := by
    rcases hs with rfl | ⟨s0, rest, ha, hstep⟩
    · exact ⟨State.reset, resetController_reset.symm⟩
    · rw [step_reset ha] at hstep
      cases hstep
      exact ⟨_, rfl⟩
  obtain ⟨u, rfl⟩ := hreset
  exact ⟨rfl, rfl, rfl, rfl, rfl, rfl, rfl, rfl, rfl, rfl⟩

/-! ### An access that is due outside IDLE (R194) -/

section
variable {s : State} {x : HostAccess} {rest : List (Nat × Arrival)}

theorem step_outside_idle (hi : s.phase ≠ .idle) : step s = sequencerStep s := by
  rw [step_eq, nextTurn, if_neg (mt (isIdle_eq_true _).1 hi)]
  rfl

theorem sequencerStep_overlap (ha : s.arrivals = (0, .access x) :: rest) :
    sequencerStep s = .fault .hostOverlap := by
  rw [sequencerStep, ha]

theorem runToIdle_overlap {rows : Nat} (hrows : rows ≠ 0) (hi : s.phase ≠ .idle)
    (ha : s.arrivals = (0, .access x) :: rest) : runToIdle rows s = .fault .hostOverlap := by
  cases rows with
  | zero => exact absurd rfl hrows
  | succ rows => rw [runToIdle, if_neg (mt (isIdle_eq_true _).1 hi), sequencerStep_overlap ha]

theorem startPrim_overlap (p : Prim) (ha : s.arrivals = (0, .access x) :: rest) :
    startPrim p s = .fault .hostOverlap :=
  runToIdle_overlap (by decide) (by simp) ha

end

/-! ### The five commands of one primitive (R195) -/

section
variable {s : State} {i : Instr} {p : Prim}

/-- In IDLE such a command begins its primitive; but for the reset it needs BUS_SYNC. -/
theorem exec_of_commandedPrim (hi : s.phase = .idle) (hp : commandedPrim s i = some p) :
    exec i s = if p = .reset ∨ s.busSync = true then startPrim p s else .fault .hazardBusUndefined := by
  cases i <;> cases hp
  case owReset => simp [exec, execOwReset, whenIdle_idle hi]
  case owWriteBit => simp [exec, execOwWriteBit, whenIdle_idle hi, whenSync, argBit]
  case owReadBit => simp [exec, execOwReadBit, whenIdle_idle hi, whenSync]
  case owWriteByte => simp [exec, execOwWriteByte, whenIdle_idle hi, whenSync, argByte]
  case owReadByte => simp [exec, execOwReadByte, whenIdle_idle hi, whenSync]

theorem exec_begins_prim (hi : s.phase = .idle) (hp : commandedPrim s i = some p)
    (hs : p = .reset ∨ s.busSync = true) : exec i s = startPrim p s := by
  rw [exec_of_commandedPrim hi hp, if_pos hs]

/-- The bit and byte commands have a primitive, and it is not the reset. -/
theorem commandedPrim_of_bit_or_byte (h : i ∈ [Instr.owWriteBit, .owReadBit, .owWriteByte, .owReadByte]) :
    ∃ p, p ≠ .reset ∧ commandedPrim s i = some p := by
  simp only [List.mem_cons, List.not_mem_nil, or_false] at h
  rcases h with rfl | rfl | rfl | rfl <;> exact ⟨_, Prim.noConfusion, rfl⟩

theorem exec_hazard_of_mem (hi : s.phase = .idle) (hs : s.busSync = false)
    (hmem : i ∈ [Instr.owWriteBit, .owReadBit, .owWriteByte, .owReadByte]) :
    exec i s = .fault .hazardBusUndefined := by
  obtain ⟨p, hne, hp⟩ := commandedPrim_of_bit_or_byte (s := s) hmem
  rw [exec_of_commandedPrim hi hp, if_neg (by simp [hne, hs])]

/-- The stops of an undisturbed host command: an unwritten read in a pass, the bus hazard elsewhere. -/
theorem exec_fault_cases {f : Fault} (hquiet : undisturbed s) (hc : portOf i = .cmd) (hr : exec i s = .fault f) :
    (i = .enumNext ∧ f = .unwrittenRead) ∨ (i ≠ .enumNext ∧ f = .hazardBusUndefined) := by
  obtain ⟨hi, ha⟩ := hquiet
  have hprim : ∀ p, commandedPrim s i = some p → f = .hazardBusUndefined := by
    intro p hp
    rw [exec_of_commandedPrim hi hp, startPrim_quiet p ha] at hr
    split at hr
    · cases hr
    · cases hr
      rfl
  cases i with
  | owReset | owWriteBit | owReadBit | owWriteByte | owReadByte => exact .inr ⟨Instr.noConfusion, hprim _ rfl⟩
  | enumNext =>
    rw [exec_enumNext hi] at hr
    split at hr
    · cases hr
    · exact .inl ⟨rfl, runToIdle_stop (s := enterPhase .eReset s) ha f hr⟩
  | searchReset => rw [exec_searchReset hi] at hr; cases hr
  | illegal c => rw [exec_illegal c hi] at hr; cases hr
  | brSetReadPointer | br1wReset | br1wSingleBit | br1wWriteByte | br1wReadByte | busSearchRom => simp [portOf] at hc

end

/-! ### Overlaps (R194) -/

section
variable {s : State}

theorem exec_no_overlap {i : Instr} (hquiet : undisturbed s) (hc : portOf i = .cmd) :
    exec i s ≠ .fault .hostOverlap := by
  intro hr
  rcases exec_fault_cases hquiet hc hr with ⟨-, hf⟩ | ⟨-, hf⟩ <;> cases hf

theorem hostRead_no_overlap (a : Byte) (s : State) : hostRead a s ≠ .fault .hostOverlap := by
  unfold hostRead
  split <;> simp

/-- What the single host asks for in IDLE is never an overlap. -/
theorem finishTurn_hostAccess_no_overlap (x : HostAccess) (hquiet : undisturbed s) :
    finishTurn (hostAccess x s) ≠ .fault .hostOverlap := by
  cases x with
  | read a => exact hostRead_no_overlap a s
  | write a v =>
    rw [hostAccess]
    split
    · exact exec_no_overlap hquiet (portOf_decodeCmd v)
    · simp [finishTurn]

theorem runRow_no_overlap (s : State) : runRow s ≠ .fault .hostOverlap := by
  rcases runRow_stop s with ⟨t, hr⟩ | ⟨hr, -⟩ <;> simp [hr]

end

/-- Settles O9: outside IDLE a due access stops the sequencer and a CMD write stops the command; with nothing arriving a
step is a wait, the host's own access in IDLE, or a row, and none of them is an overlap. -/
theorem overlappingAccessFaults : Obligations.OverlappingAccessFaults := by
  refine ⟨fun s x rest hi ha => ?due, fun s i hc hi => exec_outside_idle i hc hi, fun s ha => ?alone⟩
  case due => rw [step_outside_idle hi, sequencerStep_overlap ha]
  case alone =>
    by_cases hi : s.phase = .idle
    · cases hhost : s.host with
      | nil => simp [step_waits hi ha hhost]
      | cons x rest =>
        rw [step_access hi ha hhost]
        exact finishTurn_hostAccess_no_overlap (s := { s with host := rest }) x ⟨hi, ha⟩
    · rw [step_row hi ha]
      exact runRow_no_overlap s

/-- Settles O10: each of the commands leaves IDLE, and the access is due before its first row. -/
theorem overlapStopsRunningCommand : Obligations.OverlapStopsRunningCommand := by
  intro s x rest hi ha
  refine ⟨?reset, fun hs i hmem => ?bitOrByte, fun hx => ?pass⟩
  case reset => rw [exec_begins_prim hi rfl (.inl rfl), startPrim_overlap .reset ha]
  case bitOrByte =>
    obtain ⟨p, -, hp⟩ := commandedPrim_of_bit_or_byte (s := s) hmem
    rw [exec_begins_prim hi hp (.inr hs), startPrim_overlap p ha]
  case pass =>
    rw [exec_enumNext hi, if_neg (by simp [hx])]
    exact runToIdle_overlap (s := enterPhase .eReset s) (by decide) (by simp) ha

/-! ### BUS_SYNC and the outcome reported (R195) -/

/-- RESULT reports TIMEOUT or TRANSPORT_ERROR in its CODE. -/
def ErrorReported (s : State) : Prop := s.result &&& 0x0F#8 = 0x06#8 ∨ s.result &&& 0x0F#8 = 0x07#8

/-- BUS_SYNC is 0 after an error, and only then. -/
def SyncFollowsReport (s : State) : Prop := s.busSync = false ↔ ErrorReported s

/-- Inside a pass after its bus reset, with BUS_SYNC set; or back in IDLE, with BUS_SYNC as the outcome says. -/
def PassSync (s : State) : Prop :=
  (afterBusReset s.phase = true ∧ s.busSync = true) ∨ (s.phase = .idle ∧ SyncFollowsReport s)

theorem resultByte_and_0F (c : Code) (found ppd sd : Bool) : resultByte c found ppd sd &&& 0x0F#8 = codeByte c := by
  cases c <;> revert found ppd sd <;> decide

section
variable {s t : State} {p : Prim}

theorem errorReported_complete (c : Code) (found ppd sd : Bool) (s : State) :
    ErrorReported (complete c found ppd sd s) ↔ c = .timeout ∨ c = .transportError := by
  rw [ErrorReported, complete_result, resultByte_and_0F]
  cases c <;> decide

theorem syncFollowsReport_complete_err (e : BusError) (found ppd sd : Bool) (hs : s.busSync = false) :
    SyncFollowsReport (complete (errorCode e) found ppd sd s) := by
  rw [SyncFollowsReport, errorReported_complete, complete_busSync, hs]
  cases e <;> decide

theorem syncFollowsReport_complete {c : Code} (found ppd sd : Bool) (hc : ¬ (c = .timeout ∨ c = .transportError))
    (hs : s.busSync = true) : SyncFollowsReport (complete c found ppd sd s) := by
  rw [SyncFollowsReport, errorReported_complete, complete_busSync, hs]
  simp [hc]

theorem afterPrim_busSync_of_err {e : BusError} (ho : primOutcome p s = .err e) :
    (afterPrim p s).busSync = false := by
  simp [ho]

/-- A completed primitive sets BUS_SYNC if it is the reset, and keeps it otherwise. -/
theorem afterPrim_busSync_of_ok {v : PrimValue} (hs : p = .reset ∨ s.busSync = true) (ho : primOutcome p s = .ok v) :
    (afterPrim p s).busSync = true := by
  by_cases hp : p = .reset
  · subst hp
    simp [ho]
  · simp [ho, syncAfter_ok p _ hp, hs.resolve_left hp]

/-! #### A command of one primitive -/

theorem syncFollowsReport_runPrimRow (hs : p = .reset ∨ s.busSync = true) : SyncFollowsReport (runPrimRow p s) := by
  cases ho : primOutcome p s with
  | err e =>
    rw [runPrimRow_err ho]
    exact syncFollowsReport_complete_err e _ _ _ (afterPrim_busSync_of_err ho)
  | ok v =>
    have hsync := afterPrim_busSync_of_ok hs ho
    rw [runPrimRow_ok ho]
    cases p <;> exact syncFollowsReport_complete _ _ _ (by decide) hsync

/-! #### A pass -/

/-- A failed primitive ends the pass with its error and BUS_SYNC 0 (spec/41_search.md R138). -/
theorem passSync_of_err {e : BusError} (ho : primOutcome p s = .err e) :
    PassSync (abort (errorCode e) (afterPrim p s)) :=
  .inr ⟨rfl, syncFollowsReport_complete_err (s := clearSearch (afterPrim p s)) e _ _ _ (afterPrim_busSync_of_err ho)⟩

theorem passSync_resetRow (s : State) : PassSync (resetRow s) := by
  unfold resetRow
  cases ho : primOutcome .reset s with
  | err e =>
    exact .inr ⟨rfl, syncFollowsReport_complete_err (s := clearSearch (afterPrim .reset s)) e _ _ _
      (afterPrim_busSync_of_err ho)⟩
  | ok v =>
    have hsync : (afterPrim .reset s).busSync = true := afterPrim_busSync_of_ok (.inl rfl) ho
    simp only
    split
    · exact .inr ⟨rfl, syncFollowsReport_complete _ _ _ (by decide) hsync⟩
    · split
      · exact .inl ⟨rfl, hsync⟩
      · exact .inr ⟨rfl, syncFollowsReport_complete _ _ _ (by decide) hsync⟩

/-- The rows after the bus reset. -/
theorem passSync_after_reset (hbus : afterBusReset s.phase = true) (hs : s.busSync = true)
    (hr : runRow s = .next t) : PassSync t := by
  have hok : ∀ {p v}, primOutcome p s = .ok v → (afterPrim p s).busSync = true := afterPrim_busSync_of_ok (.inr hs)
  unfold runRow at hr
  cases hph : s.phase <;> rw [hph] at hr hbus
  case idle | eReset | pRun => simp [afterBusReset] at hbus
  case eSearch =>
    cases hr
    unfold searchRow
    cases ho : primOutcome (.writeByte s.params.searchCmd) s with
    | err e => exact passSync_of_err ho
    | ok v => exact .inl ⟨rfl, hok ho⟩
  case eRdId =>
    cases hr
    unfold readIdRow
    cases ho : primOutcome .readBit s with
    | err e => exact passSync_of_err ho
    | ok v => exact .inl ⟨rfl, hok ho⟩
  case eRdCmp =>
    rcases readCmpRow_cases s with ⟨e, ho, hrow⟩ | ⟨v, ho, hrow | ⟨d, hrow⟩ | ⟨-, hrow⟩⟩ <;>
      rw [hrow] at hr <;> cases hr
    · exact passSync_of_err ho
    · exact .inr ⟨rfl, syncFollowsReport_complete _ _ _ (by decide) (hok ho)⟩
    · exact .inl ⟨rfl, hok ho⟩
  case eWrDir =>
    cases hr
    unfold writeDirRow
    cases ho : primOutcome (.writeBit s.dir) s with
    | err e => exact passSync_of_err ho
    | ok v =>
      refine .inl ⟨?_, hok ho⟩
      rw [enterPhase_phase]
      split <;> rfl
  case eFinish =>
    rcases finishRow_cases s with ⟨-, -, hrow⟩ | ⟨-, -, hrow⟩ | ⟨-, hrow⟩ <;> rw [hrow] at hr <;> cases hr
    · exact .inr ⟨rfl, syncFollowsReport_complete _ _ _ (by decide) hs⟩
    · exact .inr ⟨rfl, syncFollowsReport_complete _ _ _ (by decide) hs⟩

/-- A pass that nothing disturbs, before its bus reset or after it. -/
structure QuietPass (s : State) : Prop where
  quiet : s.arrivals = []
  stands : s.phase = .eReset ∨ PassSync s

theorem QuietPass.kept (h : QuietPass s) (hr : sequencerStep s = .next t) : QuietPass t := by
  rw [sequencerStep_quiet h.quiet] at hr
  refine ⟨(runRow_frame hr).arrivals.trans h.quiet, .inr ?_⟩
  rcases h.stands with hp | ⟨hbus, hs⟩ | ⟨hi, hrep⟩
  · rw [runRow, hp] at hr
    cases hr
    exact passSync_resetRow s
  · exact passSync_after_reset hbus hs hr
  · rw [runRow, hi] at hr
    cases hr
    exact .inr ⟨hi, hrep⟩

theorem syncFollowsReport_of_pass (ha : s.arrivals = []) (hr : runToIdle passRows (enterPhase .eReset s) = .next t) :
    SyncFollowsReport t := by
  have hend : QuietPass t :=
    runToIdle_keeps (fun _ _ => QuietPass.kept) (s := enterPhase .eReset s) ⟨ha, .inl rfl⟩ hr
  have hidle : t.phase = .idle := runToIdle_ends_idle (s := enterPhase .eReset s) le_rfl hr
  rcases hend.stands with hp | ⟨hbus, -⟩ | ⟨-, hrep⟩
  · simp [hidle] at hp
  · simp [hidle, afterBusReset] at hbus
  · exact hrep

/-! #### The commands -/

theorem exec_owReset_syncFollowsReport (hquiet : undisturbed s) :
    ∃ t, exec .owReset s = .next t ∧ SyncFollowsReport t :=
  ⟨_, exec_owReset hquiet.1 hquiet.2, syncFollowsReport_runPrimRow (.inl rfl)⟩

/-- Without the exhausted case `ENUM_NEXT` is a pass. -/
theorem exec_enumNext_syncFollowsReport (hquiet : undisturbed s) (hx : s.exh = false)
    (hr : exec .enumNext s = .next t) : SyncFollowsReport t := by
  rw [exec_enumNext hquiet.1, if_neg (by simp [hx])] at hr
  exact syncFollowsReport_of_pass hquiet.2 hr

/-- A host command that reports an error leaves BUS_SYNC 0. -/
theorem busSync_of_errorReported {i : Instr} (hquiet : undisturbed s) (hc : portOf i = .cmd)
    (hr : exec i s = .next t) (herr : ErrorReported t) : t.busSync = false := by
  obtain ⟨-, ⟨p, hrun, hs⟩ | ⟨-, -, rfl⟩ | ⟨rfl, hx, -⟩ | ⟨-, rfl⟩ | ⟨c, -, rfl⟩⟩ := exec_command_cases hc hr
  · rw [startPrim_quiet p hquiet.2] at hrun
    cases hrun
    exact (syncFollowsReport_runPrimRow hs).2 herr
  · simp [errorReported_complete] at herr
  · exact (exec_enumNext_syncFollowsReport hquiet hx hr).2 herr
  · simp [errorReported_complete] at herr
  · simp [errorReported_complete] at herr

end

/-- Settles O18: a bus command and a pass each leave BUS_SYNC 0 exactly when they report an error; the commands that are
always allowed have no stop by the hazard. -/
theorem busHazardIsRaisedAndLifted : Obligations.BusHazardIsRaisedAndLifted := by
  refine ⟨rfl, fun s hquiet => ⟨fun hs i hmem => exec_hazard_of_mem hquiet.1 hs hmem, fun i hmem t hr herr => ?raised,
    ?reset, ⟨_, exec_searchReset hquiet.1⟩, fun c => ⟨_, exec_illegal c hquiet.1⟩, fun hr => ?enumNext,
    fun v t hx _ hr h6 h7 => ?lifted⟩⟩
  case raised =>
    have hc : portOf i = .cmd := by
      simp only [List.mem_cons, List.not_mem_nil, or_false] at hmem
      rcases hmem with rfl | rfl | rfl | rfl | rfl | rfl <;> rfl
    exact busSync_of_errorReported hquiet hc hr herr
  case reset =>
    obtain ⟨t, hr, hsync⟩ := exec_owReset_syncFollowsReport hquiet
    refine ⟨t, hr, fun hok => ?_⟩
    by_contra hs
    have herr : ErrorReported t := hsync.1 (by simpa using hs)
    simp [ErrorReported, hok] at herr
  case enumNext =>
    rcases exec_fault_cases hquiet rfl hr with ⟨-, hf⟩ | ⟨hne, -⟩
    · cases hf
    · exact hne rfl
  case lifted =>
    have hsync := exec_enumNext_syncFollowsReport hquiet hx hr
    by_contra hs
    exact (hsync.1 (by simpa using hs)).elim h6 h7

end Sys2Proof.Machine
end
